-- ==== Sys2Proof/Word.lean ====
section
/-! DEFINITION. The widths of LEDENC's values: spec/00_scope.md R7 (every value is an unsigned number of a stated
width, bit 0 is the least significant), R80 (a command word), R94 (a response), R21 (a colour channel). -/

namespace Sys2Proof

/-- A command word (R80): 32 bits. -/
abbrev Word := BitVec 32

/-- A 16-bit value: a response, a period, a count, a threshold, a sample (R28, R29, R32, R94, R165). -/
abbrev Half := BitVec 16

/-- One colour channel, or one indicator pattern (R21, R36): 8 bits. -/
abbrev Byte := BitVec 8

end Sys2Proof
end

