-- ==== Sys2Proof/Syntax.lean ====
section
/-! DEFINITION. The thirteen commands of LEDENC, one constructor per row of spec/opcode_table.json
(spec/30_encoding.md R81 to R83). An operand is the field's bits as an unsigned number (R82), so a constructor also
holds the values a command does not accept (R84: `ch = 3`, `idx >= N_MAX`, ...): those decode, and the command's own
meaning refuses them. -/

namespace Sys2Proof

/-- A command (R83). -/
inductive Instr where
  /-- NOP (R180). -/
  | nop
  /-- CBW: write channel `ch` of colour `idx` (R110). -/
  | cbw (ch : BitVec 2) (idx : Byte) (val : Byte)
  /-- CBR: read channel `ch` of colour `idx` (R111). -/
  | cbr (ch : BitVec 2) (idx : Byte)
  /-- SEND: transmit `count` colours from colour `base` (R112 to R116). -/
  | send (base : Byte) (count : Byte)
  /-- CFG: set the period (R130). -/
  | cfg (imm : Half)
  /-- START: enable the Tick Source (R131). -/
  | start
  /-- STOP: disable the Tick Source (R132). -/
  | stop
  /-- TFRD: observe the flag (R133). -/
  | tfrd
  /-- TFCLR: clear the flag (R134). -/
  | tfclr
  /-- TFTAC: observe and clear the flag in one step (R135). -/
  | tftac
  /-- TSTEP: evaluate the Threshold Tuning State Machine with input levels `a`, `b` (R150). -/
  | tstep (a : Bool) (b : Bool)
  /-- ISTEP: evaluate the Indicator State Machine with a sample (R165). -/
  | istep (imm : Half)
  /-- RDR: read a register (R181). -/
  | rdr (reg : Byte)
  deriving DecidableEq, Repr

end Sys2Proof
end

