-- ==== Sys2Proof/Decode.lean ====
section
/-! DEFINITION. The command decoder and encoder: spec/30_encoding.md R80 to R85. A command word is moved whole, as a
number, on a parallel port (R63), so it has no byte order and decoding takes a 32-bit word. -/

namespace Sys2Proof

/-- The rows of the opcode map (R83), by name. -/
inductive Op where
  | nop | cbw | cbr | send | cfg | start | stop | tfrd | tfclr | tftac | tstep | istep | rdr
  deriving DecidableEq, Repr

/-- One row of the opcode map: `w` is the command exactly when `w & mask = pattern` (R83). -/
structure OpRow where
  op : Op
  pattern : Word
  mask : Word
  deriving DecidableEq, Repr

/-- R83: the opcode map. `pattern` is the column `match`; the masks cover the opcode and every `mbz` bit. -/
def opcodeMap : List OpRow := [
  ⟨.nop,   0x00000000, 0xFFFFFFFF⟩,
  ⟨.cbw,   0x10000000, 0xFFFC0000⟩,
  ⟨.cbr,   0x11000000, 0xFFFC00FF⟩,
  ⟨.send,  0x20000000, 0xFFFF0000⟩,
  ⟨.cfg,   0x30000000, 0xFFFF0000⟩,
  ⟨.start, 0x31000000, 0xFFFFFFFF⟩,
  ⟨.stop,  0x32000000, 0xFFFFFFFF⟩,
  ⟨.tfrd,  0x33000000, 0xFFFFFFFF⟩,
  ⟨.tfclr, 0x34000000, 0xFFFFFFFF⟩,
  ⟨.tftac, 0x35000000, 0xFFFFFFFF⟩,
  ⟨.tstep, 0x40000000, 0xFFFFFFFC⟩,
  ⟨.istep, 0x50000000, 0xFFFF0000⟩,
  ⟨.rdr,   0x60000000, 0xFFFFFF00⟩]

/-- R83: whether a row matches a word. -/
def OpRow.fits (r : OpRow) (w : Word) : Bool := (w &&& r.mask) == r.pattern

/-- R82: the operand field of `width` bits from bit `lo` up. -/
def operand (w : Word) (lo width : Nat) : BitVec width := w.extractLsb' lo width

/-- R81, R82: the command of a row, with its operands read from the word. -/
def operandsOf (op : Op) (w : Word) : Instr :=
  match op with
  | .nop => .nop
  | .cbw => .cbw (operand w 16 2) (operand w 8 8) (operand w 0 8)
  | .cbr => .cbr (operand w 16 2) (operand w 8 8)
  | .send => .send (operand w 8 8) (operand w 0 8)
  | .cfg => .cfg (operand w 0 16)
  | .start => .start
  | .stop => .stop
  | .tfrd => .tfrd
  | .tfclr => .tfclr
  | .tftac => .tftac
  | .tstep => .tstep (w.getLsbD 1) (w.getLsbD 0)
  | .istep => .istep (operand w 0 16)
  | .rdr => .rdr (operand w 0 8)

/-- What decoding a word gives: a command, or `reserved_word` (R84, R201). -/
inductive Decoded where
  | command (i : Instr)
  | reservedWord
  deriving DecidableEq, Repr

/-- R85: find the one row whose mask and match fit; if none, the word is reserved. -/
def decode (w : Word) : Decoded :=
  match opcodeMap.find? (fun r => r.fits w) with
  | some r => .command (operandsOf r.op w)
  | none => .reservedWord

/-- R81, format Z: the opcode and 24 zero bits. -/
def formatZ (op : Byte) : Word := op ++ 0#24

/-- R81, format C: opcode, 6 zero bits, channel, index, and the value (CBW) or zero (CBR). -/
def formatC (op : Byte) (ch : BitVec 2) (idx val : Byte) : Word := op ++ 0#6 ++ ch ++ idx ++ val

/-- R81, format S: opcode, 8 zero bits, base, count. -/
def formatS (op : Byte) (base count : Byte) : Word := op ++ 0#8 ++ base ++ count

/-- R81, format P: opcode, 8 zero bits, a 16-bit immediate. -/
def formatP (op : Byte) (imm : Half) : Word := op ++ 0#8 ++ imm

/-- R81, format T: opcode, 22 zero bits, the two input levels. -/
def formatT (op : Byte) (a b : Bool) : Word := op ++ 0#22 ++ BitVec.ofBool a ++ BitVec.ofBool b

/-- R81, format R: opcode, 16 zero bits, a register number. -/
def formatR (op : Byte) (reg : Byte) : Word := op ++ 0#16 ++ reg

/-- R81, R83: the word of a command. -/
def encode : Instr → Word
  | .nop => formatZ 0x00
  | .cbw ch idx val => formatC 0x10 ch idx val
  | .cbr ch idx => formatC 0x11 ch idx 0
  | .send base count => formatS 0x20 base count
  | .cfg imm => formatP 0x30 imm
  | .start => formatZ 0x31
  | .stop => formatZ 0x32
  | .tfrd => formatZ 0x33
  | .tfclr => formatZ 0x34
  | .tftac => formatZ 0x35
  | .tstep a b => formatT 0x40 a b
  | .istep imm => formatP 0x50 imm
  | .rdr reg => formatR 0x60 reg

/-- The word of an opcode-table row's bits: `nbits` bits are given, every bit above them is zero. -/
def tableWord (nbits w : Nat) : Word := BitVec.ofNat 32 (w % 2 ^ nbits)

/-- The command the decoder reads from a table row's bits (none where it refuses). -/
def decodeTableWord (nbits w : Nat) : Option Instr :=
  match decode (tableWord nbits w) with
  | .command i => some i
  | .reservedWord => none

end Sys2Proof
end

