-- ==== Sys2Proof/Config.lean ====
section
/-! DEFINITION. What an implementation of LEDENC fixes at build time (spec/00_scope.md R4 and R5), and the values
the spec leaves open. The reference values are each field's default (D36); what makes a configuration well formed
(R6) and the timing formulas (R91) stand in Machine/Params.lean. -/

namespace Sys2Proof

/-- A timing profile (R91): a clock frequency and how many of its cycles each part of the waveform takes. -/
structure Profile where
  fClk : Nat
  t0hCyc : Nat
  t1hCyc : Nat
  slotCyc : Nat
  quietCyc : Nat
  tickCyc : Nat
  deriving DecidableEq, Repr

/-- The build-time constants of R4 and the parameters of R5, each with its reference value. -/
structure Config where
  nLeds : Nat := 60
  nMax : Nat := 60
  thrMin : Nat := 400
  thrMax : Nat := 470
  thrStep : Nat := 10
  tuneMax : Nat := 7
  thrDefault : Nat := 400
  periodDefault : Nat := 1
  t0hNs : Nat := 400
  t1hNs : Nat := 850
  tSlotNs : Nat := 1300
  quietNs : Nat := 80000
  tTickNs : Nat := 1000000
  burstFrames : Nat := 50
  fClk : Nat := 8000000
  /-- `MASK[0..7]` (R93, D24): tune level to pattern. -/
  mask : List Byte := [0x00, 0x01, 0x03, 0x07, 0x0F, 0x1F, 0x3F, 0x7F]
  deriving DecidableEq, Repr

/-- The second supported clock frequency in Hz: OPEN in the spec (R5, D7), so it has no body (log 3). -/
opaque Config.freqB : Nat

/-- The third supported clock frequency in Hz: OPEN in the spec (R5, D7), so it has no body (log 3). -/
opaque Config.freqC : Nat

/-- The threshold an evaluation in `Add` or `Sub` leaves when the sum or difference does not fit 16 bits: R153 and
R154 state no result there, because no reachable state comes to it. A free value, drawn by `State.free` (log 4). -/
opaque Config.freeThresh : Nat → Half

/-- The tune level an evaluation in `Add` or `Sub` leaves when it does not fit 3 bits: a free value, as
`Config.freeThresh` (log 4). -/
opaque Config.freeTune : Nat → BitVec 3

end Sys2Proof
end

