-- ==== Sys2Proof/Machine/Params.lean ====
section
/-! DEFINITION. The configuration this model is built for, the timing formulas of spec/30_encoding.md R91, and the
well-formedness of a configuration, spec/00_scope.md R6. -/

namespace Sys2Proof

/-- The configuration the machine is built for: every constant at the reference value of R4 and R5. -/
def config : Config := {}

/-- `cyc(t)` of R91: the nearest whole number of cycles, half up: floor(t * F / 10^9 + 1/2). -/
def cyclesNearest (fClk ns : Nat) : Nat := (2 * (ns * fClk) + 1000000000) / 2000000000

/-- `QUIET_CYC` of R91: the time rounded up, ceil(t * F / 10^9), so that it is never shorter than the target. -/
def cyclesAtLeast (fClk ns : Nat) : Nat := (ns * fClk + 999999999) / 1000000000

/-- R91: the profile the formulas give at a clock frequency. R91 and D15 give no rounding for `TICK_CYC`; where
`T_TICK_NS * F_CLK / 10^9` is not whole the model rounds down (DESIGN CHOICE: log 24). -/
def Profile.ofClock (c : Config) (fClk : Nat) : Profile where
  fClk := fClk
  t0hCyc := cyclesNearest fClk c.t0hNs
  t1hCyc := cyclesNearest fClk c.t1hNs
  slotCyc := cyclesNearest fClk c.tSlotNs
  quietCyc := cyclesAtLeast fClk c.quietNs
  tickCyc := c.tTickNs * fClk / 1000000000

/-- `PROFILE_A` (R5, R91): the 8 MHz profile, as the table prints it. -/
def profileA : Profile where
  fClk := 8000000
  t0hCyc := 3
  t1hCyc := 7
  slotCyc := 10
  quietCyc := 640
  tickCyc := 8000

/-- `PROFILE_B` (R5, R91): the formulas at a clock the spec leaves open. -/
def profileB (c : Config) : Profile := Profile.ofClock c Config.freqB

/-- `PROFILE_C` (R5, R91): the formulas at a clock the spec leaves open. -/
def profileC (c : Config) : Profile := Profile.ofClock c Config.freqC

/-- The profile of a configuration: one of the three supported clocks, or none (R6, R242: an unsupported clock is
rejected at build time). At 8 MHz it is the table's printed `PROFILE_A`, whatever the configuration's times are: R5 prints
the counts, R91 gives formulas, and the spec does not say which holds where they differ (DESIGN CHOICE: log 23). -/
def Config.profile (c : Config) : Option Profile :=
  if c.fClk = profileA.fClk then some profileA
  else if c.fClk = Config.freqB then some (profileB c)
  else if c.fClk = Config.freqC then some (profileC c)
  else none

/-- R27: the width of `TDIV`, `ceil(log2(TICK_CYC))` bits. -/
def Profile.tdivBits (p : Profile) : Nat := Nat.clog 2 p.tickCyc

/-- R6's condition on a profile, `0 < T0H_CYC < T1H_CYC < SLOT_CYC`, and that the quiet period and the tick take at
least one cycle (DEDUCED from R90 and R27: log 5). -/
def Profile.wf (p : Profile) : Bool :=
  0 < p.t0hCyc && p.t0hCyc < p.t1hCyc && p.t1hCyc < p.slotCyc && 0 < p.quietCyc && 0 < p.tickCyc

/-- R6: when a configuration is well formed. The mask has an entry for every 3-bit tune level, and the tune bound
fits 3 bits (DEDUCED from R33 and R5: log 5). -/
def Config.wf (c : Config) : Bool :=
  (match c.profile with
    | some p => p.wf
    | none => false)
  && 1 ≤ c.nLeds && c.nLeds ≤ c.nMax && c.nMax ≤ 255
  && c.thrMin < c.thrMax && c.thrMax < 2 ^ 16 && 1 ≤ c.thrStep
  && c.thrMax = c.thrMin + c.tuneMax * c.thrStep
  && c.thrDefault = c.thrMin
  && 1 ≤ c.periodDefault && c.periodDefault < 2 ^ 16
  && c.tuneMax ≤ 7 && c.mask.length = 8

/-- R6, R201 `bad_configuration`: an ill-formed configuration is rejected at build time. This line is the rejection:
the model does not build when `config` is not well formed. -/
theorem config_wf : config.wf = true := by decide

end Sys2Proof
end

