-- ==== Sys2Proof/Machine/State.lean ====
section
/-! DEFINITION. The state of LEDENC: every element of spec/10_state.md (R21 to R39), the response port (R94, R95),
and four fields of the model's own: the master's pending command words, the order in which the agents move (R10), the
encoder's cycle counter (cycle level only) and the counter of drawn free values. -/

namespace Sys2Proof.Machine

/-- The colour space (R60, R61): (address, byte) pairs, addresses strictly rising; an address not listed is
unwritten (R21). -/
abbrev Memory := List Host.Cell

/-- `ENC_PHASE` (R22). -/
inductive Phase where
  | idle | tx | quiet
  deriving DecidableEq, Repr

/-- `TSTATE` (R31). -/
inductive TState where
  | start | hold | add | sub | wait
  deriving DecidableEq, Repr

/-- `ISTATE` (R34). -/
inductive IState where
  | start | off | on
  deriving DecidableEq, Repr

/-- An event of the line history (R37). -/
inductive LineEvent where
  | pulse (b : Bool)
  | quiet
  deriving DecidableEq, Repr

/-- Who moves next (R10). `block` is the block's own next step: the encoder's while a SEND is in progress, else the
acceptance of the master's next command. `tick` is a step of the Tick Source. `rst` is the reset input (R230). -/
inductive Move where
  | block | tick | rst
  deriving DecidableEq, Repr

/-- R11, R200: the hardware has no fault and raises no exception, so no step ends in one: there is no reason. -/
inductive Fault where
  deriving DecidableEq, Repr

/-- R11, R201: why the model stops. The spec gives these situations no meaning and asks the model to refuse them;
each names the reason and the command index `pc`. -/
inductive Refusal where
  /-- Raised only by an arm of `exec` whose command has no meaning yet; safe (a stop). No arm raises it now. -/
  | notModelled (mnemonic : String)
  /-- `reserved_word` (R84): raised by a step that takes a word no row of the opcode map matches; safe (a stop). -/
  | reservedWord (pc : Nat)
  /-- `out_of_range` (R84): raised by CBW, CBR, SEND and RDR on an operand their rule does not accept; safe. -/
  | outOfRange (pc : Nat)
  /-- `period_zero` (R130): raised by CFG with a period of zero; safe (a stop). -/
  | periodZero (pc : Nat)
  /-- `unwritten_colour_byte` (R111, R114): raised by CBR and by the encoder's bit step on a colour byte nothing has
  written since reset; safe (a stop). -/
  | unwrittenColourByte (pc : Nat)
  deriving DecidableEq, Repr

/-- The whole state of the block. -/
structure State where
  /-- `CB`, the colour buffer (R21, R61). -/
  cb : Memory
  /-- `ENC_PHASE` (R22). -/
  encPhase : Phase
  /-- `ENC_BASE` (R22). -/
  encBase : Byte
  /-- `ENC_CNT` (R22). -/
  encCnt : Byte
  /-- `ENC_POS`, bit slots already emitted (R22). -/
  encPos : BitVec 13
  /-- `DOUT`, the data line (R23): its level at the end of the last step, or in the last cycle at the cycle level. -/
  dout : Bool
  /-- `IE`, interrupt delivery enable (R24). -/
  ie : Bool
  /-- `TPEND`, the pending tick (R25). -/
  tpend : Bool
  /-- `RUN`, the Tick Source is enabled (R26). -/
  run : Bool
  /-- `TDIV`, the Tick Source's cycle counter (R27); only the cycle level counts it. Its width is that of the profile,
  `Profile.tdivBits`; `State.DividerInv` keeps it in that range (log 14). -/
  tdiv : Nat
  /-- `PERIOD` (R28). -/
  period : Half
  /-- `COUNT` (R29). -/
  count : Half
  /-- `TF`, the "time elapsed" flag (R30). -/
  tf : Bool
  /-- `TSTATE` (R31). -/
  tstate : TState
  /-- `THRESH` (R32). -/
  thresh : Half
  /-- `TUNE` (R33). -/
  tune : BitVec 3
  /-- `ISTATE` (R34). -/
  istate : IState
  /-- `IND_FLAG` (R35). -/
  indFlag : Bool
  /-- `IND_PATTERN` (R36). -/
  indPattern : Byte
  /-- `LINE`, the line history, oldest first (R37). -/
  line : List LineEvent
  /-- `pc`, commands completed since reset (R39). -/
  pc : Nat
  /-- The response port (R94, R95): `some v` when the last step gave the response `v` (`rsp_valid`, `rsp`). -/
  rsp : Option Half
  /-- The model's own: the command words the master will present, in order (R39, R95 `cmd`). -/
  cmds : List Word
  /-- The model's own: which agent moves next, in order (R10); when it is empty the block moves. -/
  moves : List Move
  /-- The model's own, cycle level only: cycles gone by in the current slot or quiet period (R88, R90). -/
  encCyc : Nat
  /-- The model's own: how many free values have been drawn (log 4). -/
  free : Nat
  deriving DecidableEq, Repr

/-- R42, R230: the block right after reset. Every element the spec names is at the value its rule gives; the model's
own fields are empty or zero (log 6). -/
def State.reset : State where
  cb := []
  encPhase := .idle
  encBase := 0
  encCnt := 0
  encPos := 0
  dout := false
  ie := true
  tpend := false
  run := false
  tdiv := 0
  period := BitVec.ofNat 16 config.periodDefault
  count := BitVec.ofNat 16 config.periodDefault
  tf := false
  tstate := .start
  thresh := BitVec.ofNat 16 config.thrDefault
  tune := 0
  istate := .start
  indFlag := false
  indPattern := 0x00
  line := []
  pc := 0
  rsp := none
  cmds := []
  moves := []
  encCyc := 0
  free := 0

end Sys2Proof.Machine
end

