-- ==== Sys2Proof/Machine/Operands.lean ====
section
/-! DEFINITION. Every operand form of the commands: which values are accepted (spec/30_encoding.md R84), where a colour
byte lies (spec/20_memory.md R61), which bit of the frame a pulse carries (R89), what a register number reads
(spec/10_state.md R38, spec/44_register_access.md R181), the state codes (R92) and the pattern lookup (R93). -/

namespace Sys2Proof.Machine

/-- R84, R68: the channel is 0, 1 or 2 and the colour index is below `N_MAX`. -/
def colourInRange (ch : BitVec 2) (idx : Byte) : Bool :=
  ch.toNat < 3 && idx.toNat < config.nMax

/-- R84, R113: the colours to send lie in the buffer: `base + count <= N_MAX`, as unbounded numbers. -/
def frameInRange (base count : Byte) : Bool :=
  base.toNat + count.toNat ≤ config.nMax

/-- R84, R130: a period of zero is refused. -/
def periodInRange (imm : Half) : Bool := imm.toNat ≠ 0

/-- R84, R68, R181: register numbers are 0 to 7. -/
def registerInRange (reg : Byte) : Bool := reg.toNat ≤ 7

/-- R61: the byte address of channel `ch` of colour `idx`. -/
def colourAddr (ch idx : Nat) : Nat := 3 * idx + ch

/-- R89: the byte address that pulse number `p` of a frame starting at colour `base` reads. -/
def pulseAddr (base p : Nat) : Nat := colourAddr (p % 24 / 8) (base + p / 24)

/-- R89: the bit of that byte that pulse number `p` carries: 7 first, 0 last. -/
def pulseBit (p : Nat) : Nat := 7 - p % 8

/-- R7: a Boolean is 1 for true and 0 for false; R65: a flag is zero-extended to 16 bits. -/
def zextFlag (b : Bool) : Half := if b then 1 else 0

/-- R7: `zext_16` of a byte. -/
def zextByte (v : Byte) : Half := v.setWidth 16

/-- R92: the code of a tuning state. -/
def TState.code : TState → BitVec 3
  | .start => 0
  | .hold => 1
  | .add => 2
  | .sub => 3
  | .wait => 4

/-- R92: the code of an indicator state. -/
def IState.code : IState → BitVec 2
  | .start => 0
  | .off => 1
  | .on => 2

/-- R38, R181: the 16-bit read value of a register; numbers above 7 are reserved. -/
def regValue (reg : Nat) (s : State) : Option Half :=
  match reg with
  | 0 => some (0#14 ++ BitVec.ofBool s.run ++ BitVec.ofBool s.tf)
  | 1 => some s.period
  | 2 => some s.count
  | 3 => some s.thresh
  | 4 => some (0#13 ++ s.tune)
  | 5 => some (0#13 ++ s.tstate.code)
  | 6 => some (0#14 ++ s.istate.code)
  | 7 => some (0#7 ++ BitVec.ofBool s.indFlag ++ s.indPattern)
  | _ => none

/-- R93: `MASK[k]` of a configuration; a well-formed one has an entry for every level (R6, log 5). -/
def maskAt (c : Config) (k : BitVec 3) : Byte := c.mask.getD k.toNat 0

/-- Whether an exact result (none: it would be below zero, R7) fits an unsigned register of `w` bits. -/
def fitsIn (w : Nat) (exact : Option Nat) : Bool := exact.any (fun n => n < 2 ^ w)

/-- An exact result narrowed to its register's width: the number where it fits, else a free value (log 4). -/
def narrow (w : Nat) (exact : Option Nat) (free : BitVec w) : BitVec w :=
  if fitsIn w exact then BitVec.ofNat w (exact.getD 0) else free

/-- `x - y` on unsigned numbers, where it is not below zero (R7: there are no signed values). -/
def subExact (x y : Nat) : Option Nat := if y ≤ x then some (x - y) else none

/-- R36: the output port `IND_OUT` carries `IND_PATTERN` at all times. -/
def State.indOut (s : State) : Byte := s.indPattern

/-- R95, R39: `cmd_ready`: a command is accepted only when `ENC_PHASE = Idle`. The level in a cycle with `rst = 1` is
left open (R95 ties the port to `ENC_PHASE`, R230 says that nothing is accepted then); the model's port does not look at
`rst`, and `cycle` accepts nothing then all the same (DESIGN CHOICE: log 25). -/
def State.cmdReady (s : State) : Bool := s.encPhase = .idle

end Sys2Proof.Machine
end

