-- ==== Sys2Proof/Machine/Flags.lean ====
section
/-! DEFINITION. The two flags of spec/10_state.md R40: who sets and clears `TF` and `IND_FLAG`. No command sets a flag
as a side effect of arithmetic. -/

namespace Sys2Proof.Machine

/-- R30, R137: raise `TF`; raising it when it is already 1 leaves it 1. -/
def State.raiseTF (s : State) : State := { s with tf := true }

/-- R30, R134, R135: clear `TF`. -/
def State.clearTF (s : State) : State := { s with tf := false }

/-- R35, R36, R167: the outputs of the indicator state arrived at: in `On` the flag is 1 and the pattern the mask of
the tune level, in `Off` (and from `Start`, R166) the flag is 0 and the pattern "all inactive". -/
def State.indicate (c : Config) (on : Bool) (s : State) : State :=
  { s with
    istate := if on then .on else .off
    indFlag := on
    indPattern := if on then maskAt c s.tune else 0x00 }

end Sys2Proof.Machine
end

