-- ==== Sys2Proof/Machine/Ops.lean ====
section
/-! DEFINITION. The named operations over the colour buffer and the state that the meanings share: the memory
primitives of spec/00_scope.md R8, completing a command and answering it (R39, R94), the line history (R37), and the
one interrupt: the handler, its delivery and the tick step (spec/41_scheduler.md R136, R137; spec/60_exceptions.md
R202 to R206). LEDENC raises no exception (R200), so delivering the tick is all there is to take: it saves nothing,
changes no mode and transfers control nowhere (R205), and there is no return from it (R206). -/

namespace Sys2Proof.Machine

/-- R21: what an address that is not listed reads as: no value, the byte is unwritten. -/
def Memory.unlisted : Option Byte := none

/-- R8 `MemRead(a, 1)`: the byte at an address, where one has been written. -/
def Memory.read : Memory → Nat → Option Byte
  | [], _ => Memory.unlisted
  | (k, v) :: m, a => if a = k then some v else Memory.read m a

/-- R8 `MemWrite(a, 1, v)`: the byte at an address takes a value; addresses stay strictly rising. -/
def Memory.write : Memory → Nat → Byte → Memory
  | [], a, v => [(a, v)]
  | (k, u) :: m, a, v =>
    if a < k then (a, v) :: (k, u) :: m
    else if a = k then (a, v) :: m
    else (k, u) :: Memory.write m a v

/-- The addresses of a list of cells rise strictly, all from `lo` on. -/
def Memory.risesFrom : Nat → Memory → Bool
  | _, [] => true
  | lo, (k, _) :: m => lo ≤ k && Memory.risesFrom (k + 1) m

/-- The canonical form: addresses strictly rising, all in the colour space `0 .. 3 * N_MAX - 1` (R60). No entry can
equal what an unlisted address reads as, since that is no value. -/
def Memory.wf (m : Memory) : Bool :=
  Memory.risesFrom 0 m && m.all (fun c => c.1 < 3 * config.nMax)

/-- R89: the bit that pulse number `p` of a frame starting at colour `base` carries, where its byte is written. -/
def frameBit (m : Memory) (base p : Nat) : Option Bool :=
  (m.read (pulseAddr base p)).map (fun v => v.getLsbD (pulseBit p))

/-- R39: a command is complete, with no response (R94). -/
def State.complete (s : State) : State := { s with pc := s.pc + 1, rsp := none }

/-- R94: a command is complete and answers with a 16-bit response in the same step. -/
def State.respond (v : Half) (s : State) : State := { s with pc := s.pc + 1, rsp := some v }

/-- A step that completes no command gives no response (R94). -/
def State.silent (s : State) : State := { s with rsp := none }

/-- R37 `emit(e)`: the event joins the line history; its waveform ends with `DOUT` low (R88, R90). -/
def State.emit (e : LineEvent) (s : State) : State := { s with line := s.line ++ [e], dout := false }

/-- R137: the tick handler: decrement, compare, set the flag, reload. -/
def handler (s : State) : State :=
  let s1 := { s with count := s.count - 1 }
  if s1.count = 0 then { s1.raiseTF with count := s1.period } else s1

/-- R136: what a tick event does: with delivery open the handler runs at once, otherwise the tick is held pending; a
second one is lost. -/
def tick (s : State) : State :=
  if s.ie then handler s
  else if s.tpend then s
  else { s with tpend := true }

/-- R136: the tick step, enabled exactly when `RUN = 1`; a tick move while `RUN = 0` is no event (log 7). -/
def tickStep (s : State) : State :=
  if s.run then (tick s).silent else s.silent

/-- R115: delivery opens, and the one held tick is delivered now. -/
def openGate (s : State) : State :=
  let s1 := { s with ie := true }
  if s1.tpend then handler { s1 with tpend := false } else s1

/-- R230: the reset input puts every element of the block at its reset value; the master's commands, the order of
moves and the draws of free values are outside the block and stay (log 6). -/
def resetBlock (s : State) : State :=
  { State.reset with cmds := s.cmds, moves := s.moves, free := s.free }

end Sys2Proof.Machine
end

