-- ==== Sys2Proof/Machine/Access.lean ====
section
/-! DEFINITION. NOP and the register read: spec/44_register_access.md R180 and R181. -/

namespace Sys2Proof.Machine

/-- NOP (R180): changes no state but `pc`. -/
def execNop (s : State) : Host.Outcome State Fault Refusal := .next s.complete

/-- RDR (R181): responds with the register's 16-bit value; a number above 7 is refused. -/
def execRdr (reg : Byte) (s : State) : Host.Outcome State Fault Refusal :=
  if registerInRange reg then
    match regValue reg.toNat s with
    | some v => .next (s.respond v)
    | none => .refused (.outOfRange s.pc)
  else .refused (.outOfRange s.pc)

end Sys2Proof.Machine
end

