-- ==== Sys2Proof/Machine/Encoder.lean ====
section
/-! DEFINITION. The colour buffer commands and the Protocol Encoder: spec/40_encoder.md R110 to R116. SEND's own
meaning is its begin step (R113); the bit, end-of-transmission and quiet steps (R114 to R116) are the encoder's, and
the machine takes them while `ENC_PHASE` is not `Idle`. -/

namespace Sys2Proof.Machine

/-- CBW (R110): write one channel of one colour. -/
def execCbw (ch : BitVec 2) (idx val : Byte) (s : State) : Host.Outcome State Fault Refusal :=
  if colourInRange ch idx then
    .next ({ s with cb := s.cb.write (colourAddr ch.toNat idx.toNat) val }).complete
  else .refused (.outOfRange s.pc)

/-- CBR (R111): read one channel of one colour; an unwritten byte has no value and the read is refused. -/
def execCbr (ch : BitVec 2) (idx : Byte) (s : State) : Host.Outcome State Fault Refusal :=
  if colourInRange ch idx then
    match s.cb.read (colourAddr ch.toNat idx.toNat) with
    | some v => .next (s.respond (zextByte v))
    | none => .refused (.unwrittenColourByte s.pc)
  else .refused (.outOfRange s.pc)

/-- SEND, begin step (R113): the operands are latched, delivery closes, transmission begins. The command completes
(`pc`) in its quiet step. -/
def execSend (base count : Byte) (s : State) : Host.Outcome State Fault Refusal :=
  if frameInRange base count then
    .next { s with
      encBase := base, encCnt := count, encPos := 0
      ie := false, encPhase := .tx, encCyc := 0, rsp := none }
  else .refused (.outOfRange s.pc)

/-- SEND, bit step (R114): one slot, one pulse. -/
def encBit (s : State) : Host.Outcome State Fault Refusal :=
  match frameBit s.cb s.encBase.toNat s.encPos.toNat with
  | some b => .next ({ s with encPos := s.encPos + 1 }.emit (.pulse b)).silent
  | none => .refused (.unwrittenColourByte s.pc)

/-- SEND, end-of-transmission step (R115): delivery opens, a held tick is delivered, the quiet period begins. -/
def encEnd (s : State) : State := ({ openGate s with encPhase := .quiet }).silent

/-- SEND, quiet step (R116): the quiet period is over and the command complete. -/
def encQuiet (s : State) : State := ({ s with encPhase := .idle }.emit .quiet).complete

/-- The encoder's next step (R113 to R116). In `Tx` the bit step is enabled below `24 * ENC_CNT` and the
end-of-transmission step at it; beyond it (no run comes there) neither is, and the encoder stands still (log 8). -/
def encoderStep (s : State) : Host.Outcome State Fault Refusal :=
  match s.encPhase with
  | .idle => .next s.silent
  | .tx =>
    if s.encPos.toNat < 24 * s.encCnt.toNat then encBit s
    else if s.encPos.toNat = 24 * s.encCnt.toNat then .next (encEnd s)
    else .next s.silent
  | .quiet => .next (encQuiet s)

end Sys2Proof.Machine
end

