-- ==== Sys2Proof/Machine/Indicator.lean ====
section
/-! DEFINITION. The Indicator State Machine: spec/43_indicator_fsm.md R165 to R167. The flag and the pattern are those
of the state arrived at. -/

namespace Sys2Proof.Machine

/-- R165: one evaluation. `Start` goes to `Off` and ignores the sample (R166); `Off` and `On` make the same unsigned
greater-or-equal test (R167). -/
def indEval (c : Config) (sample : Half) (s : State) : State :=
  match s.istate with
  | .start => s.indicate c false
  | .off => s.indicate c (s.thresh.toNat ≤ sample.toNat)
  | .on => s.indicate c (s.thresh.toNat ≤ sample.toNat)

/-- ISTEP (R165). -/
def execIstep (imm : Half) (s : State) : Host.Outcome State Fault Refusal :=
  .next (indEval config imm s).complete

end Sys2Proof.Machine
end

