-- ==== Sys2Proof/Machine/Scheduler.lean ====
section
/-! DEFINITION. The Millisecond Scheduler's commands: spec/41_scheduler.md R130 to R135. -/

namespace Sys2Proof.Machine

/-- CFG (R130): set the period and restart the countdown; a period of zero is refused. -/
def execCfg (imm : Half) (s : State) : Host.Outcome State Fault Refusal :=
  if periodInRange imm then .next ({ s with period := imm, count := imm }).complete
  else .refused (.periodZero s.pc)

/-- START (R131): enable the Tick Source, with a whole first period and the divider cleared. -/
def execStart (s : State) : Host.Outcome State Fault Refusal :=
  .next ({ s with run := true, count := s.period, tdiv := 0 }).complete

/-- STOP (R132): disable the Tick Source. -/
def execStop (s : State) : Host.Outcome State Fault Refusal :=
  .next ({ s with run := false }).complete

/-- TFRD (R133): observe the flag. -/
def execTfrd (s : State) : Host.Outcome State Fault Refusal :=
  .next (s.respond (zextFlag s.tf))

/-- TFCLR (R134): clear the flag. -/
def execTfclr (s : State) : Host.Outcome State Fault Refusal :=
  .next s.clearTF.complete

/-- TFTAC (R135): observe and clear in one step. -/
def execTftac (s : State) : Host.Outcome State Fault Refusal :=
  .next (s.clearTF.respond (zextFlag s.tf))

end Sys2Proof.Machine
end

