-- ==== Sys2Proof/Machine/Tuning.lean ====
section
/-! DEFINITION. The Threshold Tuning State Machine: spec/42_tuning_fsm.md R150 to R155. One definition per state; the
action belongs to the state being evaluated (R150). -/

namespace Sys2Proof.Machine

/-- R151 `Start`: threshold to its default, tune level to 0, to `Hold`. -/
def tuneStart (c : Config) (s : State) : State :=
  { s with thresh := BitVec.ofNat 16 c.thrDefault, tune := 0, tstate := .hold }

/-- R152 `Hold`: one input asserted alone, and the threshold strictly inside the bound, goes to `Add` or `Sub`. -/
def tuneHold (c : Config) (a b : Bool) (s : State) : State :=
  { s with tstate :=
      if a && !b && s.thresh.toNat < c.thrMax then .add
      else if b && !a && c.thrMin < s.thresh.toNat then .sub
      else .hold }

/-- What `Add` and `Sub` write: threshold and tune level, computed exactly and narrowed to 16 and 3 bits; one that
does not fit takes a free value, and then the counter of draws advances (log 4: R153 and R154 say that no reachable
state comes there). -/
def State.retune (thresh tune : Option Nat) (s : State) : State :=
  { s with
    thresh := narrow 16 thresh (Config.freeThresh s.free)
    tune := narrow 3 tune (Config.freeTune s.free)
    tstate := .wait
    free := if fitsIn 16 thresh && fitsIn 3 tune then s.free else s.free + 1 }

/-- R153 `Add`: threshold up one step, tune level up one, to `Wait`. -/
def tuneAdd (c : Config) (s : State) : State :=
  s.retune (some (s.thresh.toNat + c.thrStep)) (some (s.tune.toNat + 1))

/-- R154 `Sub`: threshold down one step, tune level down one, to `Wait`. -/
def tuneSub (c : Config) (s : State) : State :=
  s.retune (subExact s.thresh.toNat c.thrStep) (subExact s.tune.toNat 1)

/-- R155 `Wait`: back to `Hold` once both inputs are released. -/
def tuneWait (a b : Bool) (s : State) : State :=
  { s with tstate := if !a && !b then .hold else .wait }

/-- R150: one evaluation of the machine. -/
def tuneEval (c : Config) (a b : Bool) (s : State) : State :=
  match s.tstate with
  | .start => tuneStart c s
  | .hold => tuneHold c a b s
  | .add => tuneAdd c s
  | .sub => tuneSub c s
  | .wait => tuneWait a b s

/-- TSTEP (R150). -/
def execTstep (a b : Bool) (s : State) : Host.Outcome State Fault Refusal :=
  .next (tuneEval config a b s).complete

end Sys2Proof.Machine
end

