-- ==== Sys2Proof/Machine/Dispatch.lean ====
section
/-! DEFINITION. What each command does: one arm per constructor of Instr, each a direct call of its meaning. -/

namespace Sys2Proof.Machine

/-- One command, as the block takes it when it accepts it (R39). -/
def exec (i : Instr) (s : State) : Host.Outcome State Fault Refusal :=
  match i with
  | .nop => Sys2Proof.Machine.execNop s
  | .cbw ch idx val => Sys2Proof.Machine.execCbw ch idx val s
  | .cbr ch idx => Sys2Proof.Machine.execCbr ch idx s
  | .send base count => Sys2Proof.Machine.execSend base count s
  | .cfg imm => Sys2Proof.Machine.execCfg imm s
  | .start => Sys2Proof.Machine.execStart s
  | .stop => Sys2Proof.Machine.execStop s
  | .tfrd => Sys2Proof.Machine.execTfrd s
  | .tfclr => Sys2Proof.Machine.execTfclr s
  | .tftac => Sys2Proof.Machine.execTftac s
  | .tstep a b => Sys2Proof.Machine.execTstep a b s
  | .istep imm => Sys2Proof.Machine.execIstep imm s
  | .rdr reg => Sys2Proof.Machine.execRdr reg s

end Sys2Proof.Machine
end

