-- ==== Sys2Proof/Machine/Sequencer.lean ====
section
/-! DEFINITION. The event level (spec/00_scope.md R9, R10): which atomic step comes next. The block accepts a command
only when `ENC_PHASE = Idle` (R39); while a SEND is in progress it takes the encoder's steps and the master waits. A
tick step or a reset comes wherever the order of moves puts it, so every interleaving R10 and R136 allow is the run
of some state. -/

namespace Sys2Proof.Machine

/-- The block accepts the master's next command word (R39, R95). A word no row matches is refused (R84); with no
command presented the block waits. -/
def acceptCommand (s : State) : Host.Outcome State Fault Refusal :=
  match s.cmds with
  | [] => .next s.silent
  | w :: ws =>
    match decode w with
    | .command i => exec i { s with cmds := ws }
    | .reservedWord => .refused (.reservedWord s.pc)

/-- The block's own next step: the encoder's while a SEND is in progress, else the next command. -/
def blockStep (s : State) : Host.Outcome State Fault Refusal :=
  match s.encPhase with
  | .idle => acceptCommand s
  | .tx => encoderStep s
  | .quiet => encoderStep s

/-- The step of the agent whose move it is (R10). -/
def takeMove (m : Move) (s : State) : Host.Outcome State Fault Refusal :=
  match m with
  | .block => blockStep s
  | .tick => .next (tickStep s)
  | .rst => .next (resetBlock s)

/-- One step of the machine: the next move in order, the block's when none is listed. -/
def nextMove (s : State) : Host.Outcome State Fault Refusal :=
  match s.moves with
  | [] => takeMove .block s
  | m :: ms => takeMove m { s with moves := ms }

/-- The master presents a command word next, and the block's move is next: what `withFetchWord` needs. A SEND in
progress would hold the word back, so the encoder is put at rest (log 9). -/
def presentWord (w : Word) (s : State) : State :=
  { s with cmds := w :: s.cmds, moves := .block :: s.moves, encPhase := .idle }

end Sys2Proof.Machine
end

