-- ==== Sys2Proof/Machine/Step.lean ====
section
/-! DEFINITION. One step of the machine, and the state in which the next step takes a given command word. -/

namespace Sys2Proof.Machine

/-- One atomic step at the event level (R9). -/
def step (s : State) : Host.Outcome State Fault Refusal := nextMove s

/-- `s` with an opcode-table row's bits presented on the command port, so that the next step takes exactly it. -/
def State.withFetchWord (s : State) (nbits w : Nat) : State := presentWord (tableWord nbits w) s

end Sys2Proof.Machine
end

