-- ==== Sys2Proof/WellFormed.lean ====
section
/-! DEFINITION. Which operand values a command accepts: spec/30_encoding.md R84 (a word is out of range when a row
matches it but an operand has a value the command's rule does not accept). The checks are those of
Machine/Operands.lean, which the meanings use too. -/

namespace Sys2Proof

open Machine in
/-- Every operand of the command has a value its rule accepts (R84). -/
def Instr.wellFormed : Instr → Bool
  | .nop => true
  | .cbw ch idx _ => colourInRange ch idx
  | .cbr ch idx => colourInRange ch idx
  | .send base count => frameInRange base count
  | .cfg imm => periodInRange imm
  | .start => true
  | .stop => true
  | .tfrd => true
  | .tfclr => true
  | .tftac => true
  | .tstep _ _ => true
  | .istep _ => true
  | .rdr reg => registerInRange reg

end Sys2Proof
end

