-- ==== Sys2Proof/Machine/Assembler.lean ====
section
/-! DEFINITION. The assembler syntax and the pseudo-instructions: spec/30_encoding.md R86 and R87. A line is a list of
characters, so that everything here is structural recursion on lists. -/

namespace Sys2Proof.Machine

/-- R87: the pseudo-instructions. -/
inductive Pseudo where
  | clw (idx r g b : Byte)
  | allOff (n : Byte)
  | frame (n : Byte)
  | observe
  | configure (p : Half)
  | startCall
  | stopCall
  deriving DecidableEq, Repr

/-- R87 `CLW`: write one whole colour: red, green, blue. -/
def writeColour (idx r g b : Byte) : List Instr := [.cbw 0 idx r, .cbw 1 idx g, .cbw 2 idx b]

/-- R87: the commands a pseudo-instruction expands to, and nothing else. -/
def Pseudo.expand : Pseudo → List Instr
  | .clw idx r g b => writeColour idx r g b
  | .allOff n => (List.range n.toNat).flatMap (fun i => writeColour (BitVec.ofNat 8 i) 0 0 0)
  | .frame n => [.send 0 n]
  | .observe => [.tftac]
  | .configure p => [.cfg p]
  | .startCall => [.start]
  | .stopCall => [.stop]

/-- What a line assembles to (R86): nothing, commands, or no line of the syntax. -/
inductive AsmLine where
  | blank
  | commands (is : List Instr)
  | malformed
  deriving DecidableEq, Repr

/-- Spaces and tabs separate. -/
def isBlank (c : Char) : Bool := c = ' ' || c = '\t'

/-- Blanks taken off both ends. -/
def trimBlanks (cs : List Char) : List Char :=
  ((cs.dropWhile isBlank).reverse.dropWhile isBlank).reverse

/-- A list cut at every separator. -/
def splitAtChar (sep : Char) : List Char → List (List Char)
  | [] => [[]]
  | c :: cs =>
    match splitAtChar sep cs with
    | [] => [[c]]
    | w :: ws => if c = sep then [] :: w :: ws else (c :: w) :: ws

/-- The digit characters, each standing at the place of its value. -/
def digitChars : List Char := "0123456789abcdef".toList

/-- A list of digits of a base, read left to right behind a number already read; none at a character that is no digit
of the base. Hex letters may be small or capital (log 17). -/
def readDigits (base : Nat) : Nat → List Char → Option Nat
  | n, [] => some n
  | n, c :: cs =>
    ((digitChars.take base).findIdx? (· == c.toLower)).bind fun d => readDigits base (base * n + d) cs

/-- R86: a decimal or `0x` hex number. -/
def numberOf (cs : List Char) : Option Nat :=
  match cs with
  | [] => none
  | '0' :: 'x' :: [] => none
  | '0' :: 'x' :: ds => readDigits 16 0 ds
  | ds => readDigits 10 0 ds

/-- A number that fits an operand field of `w` bits. -/
def fieldOf (w : Nat) (cs : List Char) : Option (BitVec w) :=
  match numberOf cs with
  | some n => if n < 2 ^ w then some (BitVec.ofNat w n) else none
  | none => none

/-- R86: `ch` may be written `R`, `G`, `B` for 0, 1, 2. -/
def channelOf (cs : List Char) : Option (BitVec 2) :=
  match cs with
  | ['R'] => some 0
  | ['G'] => some 1
  | ['B'] => some 2
  | ds => fieldOf 2 ds

/-- An input level: 0 or 1. -/
def levelOf (cs : List Char) : Option Bool := (fieldOf 1 cs).map (fun v => v.getLsbD 0)

/-- R86: the command of a mnemonic and its operands, in the order of R83. -/
def commandOf (name : List Char) (args : List (List Char)) : Option Instr :=
  match name, args with
  | ['N', 'O', 'P'], [] => some .nop
  | ['C', 'B', 'W'], [c, i, v] =>
    (channelOf c).bind fun ch => (fieldOf 8 i).bind fun idx => (fieldOf 8 v).map fun val => .cbw ch idx val
  | ['C', 'B', 'R'], [c, i] => (channelOf c).bind fun ch => (fieldOf 8 i).map fun idx => .cbr ch idx
  | ['S', 'E', 'N', 'D'], [b, n] => (fieldOf 8 b).bind fun base => (fieldOf 8 n).map fun count => .send base count
  | ['C', 'F', 'G'], [p] => (fieldOf 16 p).map .cfg
  | ['S', 'T', 'A', 'R', 'T'], [] => some .start
  | ['S', 'T', 'O', 'P'], [] => some .stop
  | ['T', 'F', 'R', 'D'], [] => some .tfrd
  | ['T', 'F', 'C', 'L', 'R'], [] => some .tfclr
  | ['T', 'F', 'T', 'A', 'C'], [] => some .tftac
  | ['T', 'S', 'T', 'E', 'P'], [x, y] => (levelOf x).bind fun a => (levelOf y).map fun b => .tstep a b
  | ['I', 'S', 'T', 'E', 'P'], [s] => (fieldOf 16 s).map .istep
  | ['R', 'D', 'R'], [r] => (fieldOf 8 r).map .rdr
  | _, _ => none

/-- R87: the pseudo-instructions written as a mnemonic and operands. -/
def pseudoOf (name : List Char) (args : List (List Char)) : Option Pseudo :=
  match name, args with
  | ['C', 'L', 'W'], [i, r, g, b] =>
    (fieldOf 8 i).bind fun idx => (fieldOf 8 r).bind fun red => (fieldOf 8 g).bind fun green =>
      (fieldOf 8 b).map fun blue => .clw idx red green blue
  | ['A', 'L', 'L', 'O', 'F', 'F'], [n] => (fieldOf 8 n).map .allOff
  | ['F', 'R', 'A', 'M', 'E'], [n] => (fieldOf 8 n).map .frame
  | ['O', 'B', 'S', 'E', 'R', 'V', 'E'], [] => some .observe
  | _, _ => none

/-- R87: the pseudo-instructions written as the source's calls. -/
def callOf (name : List Char) (arg : List Char) : Option Pseudo :=
  match name, arg with
  | ['c', 'o', 'n', 'f', 'i', 'g', 'u', 'r', 'e'], p => (fieldOf 16 p).map .configure
  | ['s', 't', 'a', 'r', 't'], [] => some .startCall
  | ['s', 't', 'o', 'p'], [] => some .stopCall
  | _, _ => none

/-- R86: the operands of a line, separated by commas. -/
def operandsText (cs : List Char) : List (List Char) :=
  match trimBlanks cs with
  | [] => []
  | t => (splitAtChar ',' t).map trimBlanks

/-- The commands of a line that holds no comment and no outer blanks. -/
def statementOf (cs : List Char) : Option (List Instr) :=
  let name := cs.takeWhile (fun c => !isBlank c && c ≠ '(')
  match trimBlanks (cs.drop name.length) with
  | '(' :: rest =>
    match rest.reverse with
    | ')' :: inner => (callOf name (trimBlanks inner.reverse)).map Pseudo.expand
    | _ => none
  | rest =>
    match commandOf name (operandsText rest) with
    | some i => some [i]
    | none => (pseudoOf name (operandsText rest)).map Pseudo.expand

/-- R86: one line of assembly; a comment runs from `;` to the end of the line. -/
def assembleLine (cs : List Char) : AsmLine :=
  match trimBlanks (cs.takeWhile (fun c => c ≠ ';')) with
  | [] => .blank
  | t =>
    match statementOf t with
    | some is => .commands is
    | none => .malformed

/-- R80, R86: the command words of the lines of a program, in order; none where a line is malformed. -/
def assemble : List (List Char) → Option (List Word)
  | [] => some []
  | l :: ls =>
    match assembleLine l with
    | .blank => assemble ls
    | .commands is => (assemble ls).map (fun ws => is.map encode ++ ws)
    | .malformed => none

end Sys2Proof.Machine
end

