-- ==== Sys2Proof/Machine/Cycle.lean ====
section
/-! DEFINITION. The cycle level (spec/00_scope.md R9): what LEDENC does in one clock cycle of a timing profile, over
the same State and by the same atomic operations as the event level. Wire waveforms: spec/30_encoding.md R88 to R91;
cycles per command: spec/70_reset_and_hazards.md R244 to R246; the Tick Source's divider: spec/10_state.md R27; events
that fall in one cycle: spec/60_exceptions.md R204. No rule of function depends on this level. -/

namespace Sys2Proof.Machine

/-- The input ports in one cycle (R95). -/
structure CycleIn where
  rst : Bool
  cmdValid : Bool
  cmd : Word
  deriving DecidableEq, Repr

/-- R88: for how many cycles `DOUT` is high in the slot of a bit. -/
def highCycles (p : Profile) (b : Bool) : Nat := if b then p.t1hCyc else p.t0hCyc

/-- R88, R90: the levels of `DOUT`, cycle by cycle, that an event of the line history stands for. -/
def waveform (p : Profile) : LineEvent → List Bool
  | .pulse b => List.replicate (highCycles p b) true ++ List.replicate (p.slotCyc - highCycles p b) false
  | .quiet => List.replicate p.quietCyc false

/-- R136: a tick event falls in the cycle in which `TDIV` wraps, while `RUN = 1`. -/
def tickDue (p : Profile) (s : State) : Bool := s.run && p.tickCyc ≤ s.tdiv + 1

/-- R27: `TDIV` counts cycles from 0 to `TICK_CYC - 1` while `RUN = 1`. -/
def countDivider (p : Profile) (s : State) : State :=
  if s.run then { s with tdiv := if p.tickCyc ≤ s.tdiv + 1 then 0 else s.tdiv + 1 } else s

/-- The tick event of a cycle, where there is one. -/
def tickWhen (due : Bool) (s : State) : State := if due then tick s else s

/-- R115: a transmission whose last slot is over ends on the same clock edge (R244: SEND takes its slots and the
quiet period, nothing between). -/
def endTransmission (s : State) : State :=
  if s.encPhase = .tx ∧ s.encPos.toNat = 24 * s.encCnt.toNat then { encEnd s with encCyc := 0 } else s

/-- A cycle in which no SEND is in progress: a tick comes before the command accepted in the same cycle (R204); the
command completes in this cycle (R244), or begins a SEND. -/
def cycleIdle (due : Bool) (inp : CycleIn) (s : State) : Host.Outcome State Fault Refusal :=
  let s1 := tickWhen due { s with dout := false }
  if inp.cmdValid then
    match decode inp.cmd with
    | .reservedWord => .refused (.reservedWord s1.pc)
    | .command i =>
      match exec i s1 with
      | .next s2 => .next (endTransmission s2)
      | .fault r => .fault r
      | .refused r => .refused r
  else .next s1

/-- A cycle of the quiet period (R90, R116): `DOUT` is low; a tick runs the handler at once and does not lengthen the
period. The quiet step is taken in the last cycle. -/
def cycleQuiet (p : Profile) (due : Bool) (s : State) : State :=
  let s1 := tickWhen due { s with dout := false }
  if s.encCyc + 1 < p.quietCyc then { s1 with encCyc := s.encCyc + 1 }
  else { encQuiet s1 with encCyc := 0 }

/-- A cycle of a slot (R88): `DOUT` is high in the first `T0H_CYC` or `T1H_CYC` cycles of the slot and low in the rest.
The slot's bit step is taken in its last cycle (log 10); a tick in the cycle of the end-of-transmission step comes
after it (R204). A cycle that starts with the last slot already over (the event level comes to such a state; no cycle
leaves one behind) takes the end-of-transmission step, which R115 enables, first and is the first cycle of the quiet
period: R9 and R244 give that step no cycle of its own (DESIGN CHOICE: log 10). Beyond the last slot the encoder
stands still (log 8). -/
def cycleTx (p : Profile) (due : Bool) (s : State) : Host.Outcome State Fault Refusal :=
  if s.encPos.toNat < 24 * s.encCnt.toNat then
    match frameBit s.cb s.encBase.toNat s.encPos.toNat with
    | none => .refused (.unwrittenColourByte s.pc)
    | some b =>
      let level := decide (s.encCyc < highCycles p b)
      if s.encCyc + 1 < p.slotCyc then
        .next (tickWhen due { s with dout := level, encCyc := s.encCyc + 1 })
      else
        match encBit { s with encCyc := 0 } with
        | .next s1 => .next (tickWhen due (endTransmission { s1 with dout := level }))
        | .fault r => .fault r
        | .refused r => .refused r
  else if s.encPos.toNat = 24 * s.encCnt.toNat then .next (cycleQuiet p due (endTransmission s))
  else .next (tickWhen due { s with dout := false })

/-- One clock cycle. Its response and its `DOUT` level are the new state's `rsp` and `dout` (R244: state and response
change on the edge that ends the cycle). While `rst` is 1 every element is held at its reset value (R230). -/
def cycle (p : Profile) (inp : CycleIn) (s : State) : Host.Outcome State Fault Refusal :=
  if inp.rst then .next (resetBlock s)
  else
    let due := tickDue p s
    let s1 := (countDivider p s).silent
    match s.encPhase with
    | .idle => cycleIdle due inp s1
    | .tx => cycleTx p due s1
    | .quiet => .next (cycleQuiet p due s1)

/-- A run of cycles: the levels of `DOUT`, cycle by cycle, and the last state; none where a cycle is refused. -/
def runCycles (p : Profile) : List CycleIn → State → Option (List Bool × State)
  | [], s => some ([], s)
  | inp :: rest, s =>
    match cycle p inp s with
    | .next s1 => (runCycles p rest s1).map (fun r => (s1.dout :: r.1, r.2))
    | .fault _ => none
    | .refused _ => none

/-- R244, R245: for how many cycles a SEND of `count` colours holds `cmd_ready` low. -/
def sendCycles (p : Profile) (count : Nat) : Nat := 24 * count * p.slotCyc + p.quietCyc

end Sys2Proof.Machine
end

