-- ==== Sys2Proof/Machine/Master.lean ====
section
/-! DEFINITION. The reference master, the source's Control Loop: spec/45_control_loop.md R190 to R197, and its
boot order, spec/70_reset_and_hazards.md R232. It stands outside the block (spec/00_scope.md R3, C7); every state of
the machine already stands for an arbitrary master, and this file gives the one the source describes, for whole-system
claims. What the external collaborators answer is an argument of each move: a draw of any value (R196, R197, U11), and
`gradient` is a parameter (R195). -/

namespace Sys2Proof.Machine

/-- A colour: three 8-bit intensities. -/
structure Colour where
  red : Byte
  green : Byte
  blue : Byte
  deriving DecidableEq, Repr

/-- Channel 0 is red, 1 green, 2 blue (R110). -/
def Colour.channel (c : Colour) (ch : Nat) : Byte :=
  match ch with
  | 0 => c.red
  | 1 => c.green
  | _ => c.blue

/-- What the external collaborators answer at one move of the master: the debounced levels (R197), `latest()` (R196)
and the gradient (R195: any function of a frame counter and an LED index). -/
structure Collaborators where
  a : Bool
  b : Bool
  latest : Half
  gradient : Nat → Nat → Colour

/-- Where the master stands in its boot order and its loop (R232, R191, R193, R194): which command it issues next. -/
inductive MasterPlace where
  /-- Boot (R232): issue CFG if a period other than the default is wanted, else START. -/
  | boot
  /-- Boot, the period is set: issue START. -/
  | bootStart
  /-- Outer iteration: read the inputs and issue TSTEP. -/
  | poll
  /-- Issue TFTAC. -/
  | askFlag
  /-- The flag's answer is there: capture a sample if it was raised, and issue ISTEP. -/
  | heardFlag
  /-- Issue RDR 7. -/
  | askIndicator
  /-- The indicator's answer is there: choose the mode. -/
  | heardIndicator
  /-- Animation mode, before frame `frame`: issue TFTAC, or end the burst when all its frames are sent. -/
  | await (frame : Nat)
  /-- Animation mode: the answer to that TFTAC is there. -/
  | heardTick (frame : Nat)
  /-- Animation mode: the colour bytes below `byte` are written. -/
  | paint (frame : Nat) (byte : Nat)
  /-- Off mode: the colour bytes below `byte` are written with 0. -/
  | blacken (byte : Nat)
  deriving DecidableEq, Repr

/-- The master's own variables (R190): the debounced levels, the captured sample and the animation's position; and
what its control needs: the period it wants other than the default (R232), its place, and the last response it was
given. -/
structure Master where
  a : Bool
  b : Bool
  sample : Half
  frameNo : Nat
  wanted : Option Half
  place : MasterPlace
  answer : Option Half
  deriving DecidableEq, Repr

/-- The reference master at power-on, wanting a period (none: the default). It starts with `s = 0` (R191, D38) and in its
boot order (R232). The spec gives no first value to the levels and to the gradient's frame counter: not asserted, and 0
(DESIGN CHOICE: log 18). -/
def Master.initial (wanted : Option Half) : Master where
  a := false
  b := false
  sample := 0
  frameNo := 0
  wanted := wanted
  place := .boot
  answer := none

/-- The command that writes colour byte `j` of the whole sequence: colours ascending, red, green, blue (R87 `CLW`). -/
def writeByte (j : Nat) (v : Byte) : Instr := .cbw (BitVec.ofNat 2 (j % 3)) (BitVec.ofNat 8 (j / 3)) v

/-- R193, R194: the frame is `SEND 0, N_LEDS`. -/
def sendAll (c : Config) : Instr := .send 0 (BitVec.ofNat 8 c.nLeds)

/-- R191: an outer iteration starts: refresh the debounced levels and issue TSTEP with them. -/
def Master.pollInputs (env : Collaborators) (m : Master) : Instr × Master :=
  let m1 := { m with a := env.a, b := env.b, place := .askFlag }
  (.tstep m1.a m1.b, m1)

/-- R193: the burst stands before frame `frame`. Below `BURST_FRAMES` it waits for the flag; after that many frames (at
once, where the configuration has none) the next outer iteration starts. -/
def Master.nextFrame (c : Config) (env : Collaborators) (frame : Nat) (m : Master) : Instr × Master :=
  if frame < c.burstFrames then (.tftac, { m with place := .heardTick frame }) else m.pollInputs env

/-- R193: write the next byte of the gradient; when all are written, count the frame and send it. -/
def Master.paintFrom (c : Config) (env : Collaborators) (frame j : Nat) (m : Master) : Instr × Master :=
  if j < 3 * c.nLeds then
    (writeByte j ((env.gradient m.frameNo (j / 3)).channel (j % 3)), { m with place := .paint frame (j + 1) })
  else (sendAll c, { m with frameNo := m.frameNo + 1, place := .await (frame + 1) })

/-- R194: write the next byte with 0; when all are written, send the all-off frame. -/
def Master.blackenFrom (c : Config) (j : Nat) (m : Master) : Instr × Master :=
  if j < 3 * c.nLeds then (writeByte j 0, { m with place := .blacken (j + 1) })
  else (sendAll c, { m with place := .poll })

/-- The next command the reference master issues, and the master after it: the boot order of R232, CFG before START,
then the loop of R191 to R194. -/
def Master.issue (c : Config) (env : Collaborators) (m : Master) : Instr × Master :=
  match m.place with
  | .boot =>
    match m.wanted with
    | some p => (.cfg p, { m with place := .bootStart })
    | none => (.start, { m with place := .poll })
  | .bootStart => (.start, { m with place := .poll })
  | .poll => m.pollInputs env
  | .askFlag => (.tftac, { m with place := .heardFlag })
  | .heardFlag =>
    let s := if m.answer = some 1 then env.latest else m.sample
    (.istep s, { m with sample := s, place := .askIndicator })
  | .askIndicator => (.rdr 7, { m with place := .heardIndicator })
  | .heardIndicator =>
    if m.answer.any (fun g => g.getLsbD 8) then m.nextFrame c env 0
    else m.blackenFrom c 0
  | .await frame => m.nextFrame c env frame
  | .heardTick frame =>
    if m.answer = some 1 then m.paintFrom c env frame 0 else (.tftac, m)
  | .paint frame j => m.paintFrom c env frame j
  | .blacken j => m.blackenFrom c j

/-- The master and the block together. -/
structure System where
  master : Master
  block : State
  deriving DecidableEq, Repr

/-- Power-on: the block after reset, and the master at the start of its boot order. -/
def System.initial (wanted : Option Half) : System where
  master := Master.initial wanted
  block := State.reset

/-- The system after a step of the block: a response given in it is the master's last answer. -/
def System.hear (m : Master) (t : State) : System where
  master := if t.rsp.isSome then { m with answer := t.rsp } else m
  block := t

/-- One step of the whole system. On a `block` move the master issues its next command when the block is ready
(R10: one at a time, blocked during a SEND) and the encoder moves otherwise; a tick comes wherever the moves put it;
a reset starts both again (log 11). -/
def System.step (c : Config) (env : Collaborators) (move : Move) (y : System) : Host.Outcome System Fault Refusal :=
  let (m, s) :=
    if move = .block ∧ y.block.cmdReady then
      let im := y.master.issue c env
      (im.2, { y.block with cmds := [encode im.1] })
    else (y.master, y.block)
  match takeMove move s with
  | .next t => .next (if move = .rst then System.initial y.master.wanted else System.hear m t)
  | .fault r => .fault r
  | .refused r => .refused r

end Sys2Proof.Machine
end

