-- ==== Sys2Proof/Safety.lean ====
section
/-! DEFINITION. What a good state and a safe run are, in the terms claims use. Each part of the invariant formalises a
sentence of the spec about every moment of a run at the event level. -/

namespace Sys2Proof.Machine

/-- R22: where the encoder stands: the latched frame lies in the buffer, and the position runs up to `24 * ENC_CNT`,
which it has reached whenever no transmission is in progress. -/
abbrev State.EncoderInv (s : State) : Prop :=
  s.encBase.toNat + s.encCnt.toNat ≤ config.nMax ∧ s.encPos.toNat ≤ 24 * s.encCnt.toNat ∧
    (s.encPhase ≠ .tx → s.encPos.toNat = 24 * s.encCnt.toNat)

/-- R24: `IE` is 0 exactly while `ENC_PHASE = Tx`. R25: `TPEND` is 0 whenever `IE = 1`. -/
abbrev State.GateInv (s : State) : Prop :=
  (s.ie = false ↔ s.encPhase = .tx) ∧ (s.ie = true → s.tpend = false)

/-- R28, R29: `1 <= PERIOD` and `1 <= COUNT`; the countdown is never above the period (R130, R131, R137). -/
abbrev State.SchedulerInv (s : State) : Prop :=
  1 ≤ s.period.toNat ∧ 1 ≤ s.count.toNat ∧ s.count.toNat ≤ s.period.toNat

/-- R156: threshold and tune level move in lock-step and stay in their bounds; R153, R154: `Add` and `Sub` are entered
only with the threshold strictly inside the bound. -/
abbrev State.TuningInv (c : Config) (s : State) : Prop :=
  s.thresh.toNat = c.thrMin + s.tune.toNat * c.thrStep ∧ s.tune.toNat ≤ c.tuneMax ∧
    (s.tstate = .add → s.thresh.toNat < c.thrMax) ∧ (s.tstate = .sub → c.thrMin < s.thresh.toNat)

/-- R35: `IND_FLAG = 1` exactly when `ISTATE = On`; R36, R168: the pattern is "all inactive" when the flag is 0 and an
entry of the mask when it is 1. -/
abbrev State.IndicatorInv (c : Config) (s : State) : Prop :=
  (s.indFlag = true ↔ s.istate = .on) ∧ (s.indFlag = false → s.indPattern = 0x00) ∧
    (s.indFlag = true → s.indPattern ∈ c.mask)

/-- A line history read as frames (R118): the pulses since the last `Quiet`, where every `Quiet` so far closes a whole
number of colours (24 pulses each); none where one does not. -/
def framedPulses : Nat → List LineEvent → Option Nat
  | n, [] => some n
  | n, .pulse _ :: es => framedPulses (n + 1) es
  | n, .quiet :: es => if n % 24 = 0 then framedPulses 0 es else none

/-- R118: the line history is whole frames, and then the pulses of the SEND in progress; R23: `DOUT` is low between
steps. -/
abbrev State.LineInv (s : State) : Prop :=
  framedPulses 0 s.line = some (if s.encPhase = .idle then 0 else s.encPos.toNat) ∧ s.dout = false

/-- R27: `TDIV` runs from 0 to `TICK_CYC - 1`, so it fits its `ceil(log2(TICK_CYC))` bits. -/
abbrev State.DividerInv (p : Profile) (s : State) : Prop :=
  s.tdiv < p.tickCyc ∧ s.tdiv < 2 ^ p.tdivBits

/-- What every state of a run from reset satisfies. The divider's range is that of the profile the machine is built
for, `PROFILE_A` (R4, R5). -/
structure State.Inv (s : State) : Prop where
  memory : s.cb.wf = true
  encoder : s.EncoderInv
  gate : s.GateInv
  scheduler : s.SchedulerInv
  tuning : s.TuningInv config
  indicator : s.IndicatorInv config
  line : s.LineInv
  divider : s.DividerInv profileA

/-- The states a run of steps can come to from a state. -/
inductive Reaches (s : State) : State → Prop where
  | here : Reaches s s
  | next {t u : State} : Reaches s t → step t = .next u → Reaches s u

/-- Every colour byte of a frame has been written (R215: what the host must do before a SEND). -/
abbrev State.frameWritten (s : State) (base count : Nat) : Prop :=
  ∀ p, p < 24 * count → (s.cb.read (pulseAddr base p)).isSome

/-- A run of `k` steps that meets no refusal (R11: a refused run is never final). -/
def State.Safe (k : Nat) (s : State) : Prop := ∃ t, Host.Core.run core k s = .next t

/-- The master has no command left and no SEND is in progress. -/
abbrev State.Done (s : State) : Prop := s.cmds = [] ∧ s.encPhase = .idle

end Sys2Proof.Machine
end

