-- ==== Sys2Proof/Certificates/Slice0/Obligations.lean ====
section
/-! DEFINITION. The statements about LEDENC for the provers, and the few words they are stated in. Each docstring
names the rule of spec/ a statement formalises, or the log entry of a choice of the model's it rests on. -/

namespace Sys2Proof.Claims

open Sys2Proof.Machine

/-- R81, R83: the must-be-zero bits of a word, by its opcode byte; none for the opcodes of no command. -/
def mustBeZero (op : Nat) : Option Word :=
  match op with
  | 0x00 => some 0x00FFFFFF
  | 0x10 => some 0x00FC0000
  | 0x11 => some 0x00FC00FF
  | 0x20 => some 0x00FF0000
  | 0x30 => some 0x00FF0000
  | 0x31 => some 0x00FFFFFF
  | 0x32 => some 0x00FFFFFF
  | 0x33 => some 0x00FFFFFF
  | 0x34 => some 0x00FFFFFF
  | 0x35 => some 0x00FFFFFF
  | 0x40 => some 0x00FFFFFC
  | 0x50 => some 0x00FF0000
  | 0x60 => some 0x00FFFF00
  | _ => none

/-- R117: the eight pulses of a byte, most significant bit first. -/
def bytePulses (v : Byte) : List LineEvent := (List.range 8).map (fun k => .pulse (v.getLsbD (7 - k)))

/-- R117: the 24 pulses of colour `i`: red, green, blue. -/
def colourPulses (m : Memory) (i : Nat) : List LineEvent :=
  (List.range 3).flatMap (fun ch => bytePulses ((m.read (3 * i + ch)).getD 0))

/-- R117: the pulses of `SEND base, count`: the colours from `base` on, in ascending order. -/
def framePulses (m : Memory) (base count : Nat) : List LineEvent :=
  (List.range count).flatMap (fun i => colourPulses m (base + i))

/-- Every byte of the colours `base` to `base + count - 1` has been written (R215). -/
def coloursWritten (m : Memory) (base count : Nat) : Prop :=
  ∀ i ch, i < count → ch < 3 → (m.read (3 * (base + i) + ch)).isSome

/-- Commands taken one after another. -/
def execAll : List Instr → State → Host.Outcome State Fault Refusal
  | [], s => .next s
  | i :: is, s =>
    match exec i s with
    | .next t => execAll is t
    | .fault r => .fault r
    | .refused r => .refused r

/-- Moves taken one after another. -/
def moveAll : List Move → State → Host.Outcome State Fault Refusal
  | [], s => .next s
  | m :: ms, s =>
    match takeMove m s with
    | .next t => moveAll ms t
    | .fault r => .fault r
    | .refused r => .refused r

/-- What the event level sees of a state of the cycle level: no divider, no cycle count inside a slot, no level inside
a slot, no ports. -/
def eventView (s : State) : State :=
  { s with tdiv := 0, encCyc := 0, dout := false, rsp := none, cmds := [], moves := [] }

/-- R91: `n` cycles are the nearest whole number to `x / 10^9` cycles, half up: `n <= x / 10^9 + 1/2 < n + 1`. -/
def nearestHalfUp (n x : Nat) : Prop :=
  2 * n * 1000000000 ≤ 2 * x + 1000000000 ∧ 2 * x + 1000000000 < 2 * (n + 1) * 1000000000

/-- The system after a number of block moves, the collaborators answering the same each time. -/
def systemRun (c : Config) (env : Collaborators) : Nat → System → Host.Outcome System Fault Refusal
  | 0, y => .next y
  | k + 1, y =>
    match y.step c env .block with
    | .next z => systemRun c env k z
    | .fault r => .fault r
    | .refused r => .refused r

end Sys2Proof.Claims

open Sys2Proof Sys2Proof.Machine Sys2Proof.Claims

/-! ## Encoding -/

/-- Words written out from R81 to R86 decode to the commands they stand for, and reserved words do not decode. -/
def Obligations.SpecWordsDecode : Prop :=
  decode 0x00000000 = .command .nop ∧ decode 0x1000000A = .command (.cbw 0 0 10) ∧
  decode 0x100202FF = .command (.cbw 2 2 255) ∧ decode 0x11010000 = .command (.cbr 1 0) ∧
  decode 0x20003B01 = .command (.send 59 1) ∧ decode 0x3000FFFF = .command (.cfg 65535) ∧
  decode 0x31000000 = .command .start ∧ decode 0x32000000 = .command .stop ∧
  decode 0x33000000 = .command .tfrd ∧ decode 0x34000000 = .command .tfclr ∧
  decode 0x35000000 = .command .tftac ∧ decode 0x40000002 = .command (.tstep true false) ∧
  decode 0x500001C2 = .command (.istep 450) ∧ decode 0x60000007 = .command (.rdr 7) ∧
  decode 0x00000001 = .reservedWord ∧ decode 0x10040000 = .reservedWord ∧ decode 0x11010001 = .reservedWord ∧
  decode 0x21000000 = .reservedWord ∧ decode 0x30010000 = .reservedWord ∧ decode 0x40000004 = .reservedWord ∧
  decode 0xFFFFFFFF = .reservedWord

/-- R81 to R83: decoding the word of any command, with every operand at any value of its field, gives it back. -/
def Obligations.DecodeOfEncode : Prop := ∀ i : Instr, decode (encode i) = .command i

/-- R80, R83: a word that decodes to a command is the word of that command: no bit of it is ignored. -/
def Obligations.EncodeOfDecode : Prop := ∀ (w : Word) (i : Instr), decode w = .command i → encode i = w

/-- R85: the decoder finds the one row whose mask and match fit; if none fits, the word is reserved. -/
def Obligations.DecoderFindsTheOneRow : Prop :=
  ∀ w : Word,
    (∀ r ∈ opcodeMap, w &&& r.mask = r.pattern → decode w = .command (operandsOf r.op w)) ∧
    (∀ r ∈ opcodeMap, ∀ q ∈ opcodeMap, w &&& r.mask = r.pattern → w &&& q.mask = q.pattern → r = q) ∧
    ((∀ r ∈ opcodeMap, w &&& r.mask ≠ r.pattern) → decode w = .reservedWord)

/-- R84: a word is reserved exactly when its opcode is none of the thirteen or a must-be-zero bit is 1. -/
def Obligations.ReservedByOpcodeOrZeroBits : Prop :=
  ∀ w : Word, decode w = .reservedWord ↔
    match mustBeZero (w.extractLsb' 24 8).toNat with
    | some z => w &&& z ≠ 0
    | none => True

/-! ## Stepping -/

/-- R10, R39: a step is the next move in order, the block's when none is listed: the encoder's step while a SEND is in
progress, a tick step, a reset. (The order of moves, and that a block with nothing to do waits, are the model's own:
log 2; that a step which answers nothing clears the response is log 12.) -/
def Obligations.StepTakesTheNextMove : Prop :=
  ∀ s : State,
    (s.moves = [] → step s = blockStep s) ∧
    (∀ ms, s.moves = .block :: ms → step s = blockStep { s with moves := ms }) ∧
    (∀ ms, s.moves = .tick :: ms → step s = .next (tickStep { s with moves := ms })) ∧
    (∀ ms, s.moves = .rst :: ms → step s = .next (resetBlock { s with moves := ms })) ∧
    (s.encPhase ≠ .idle → blockStep s = encoderStep s) ∧
    (s.encPhase = .idle → s.cmds = [] → blockStep s = .next { s with rsp := none })

/-- R39, R69: when no SEND is in progress and the word presented decodes to a command, a block step runs exactly that
command, the word taken off the port; `exec` is handed the rest of the state as it is. -/
def Obligations.StepRunsTheDecodedCommand : Prop :=
  ∀ (s : State) (w : Word) (ws : List Word) (i : Instr),
    s.encPhase = .idle → s.cmds = w :: ws → decode w = .command i →
    (s.moves = [] → step s = exec i { s with cmds := ws }) ∧
    (∀ ms, s.moves = .block :: ms → step s = exec i { s with cmds := ws, moves := ms })

/-- The next step of a state with a fetched word runs the command the decoder reads from it (log 9). -/
def Obligations.FetchedWordRuns : Prop :=
  ∀ (s : State) (w : Nat) (i : Instr), decodeTableWord 32 w = some i →
    step (s.withFetchWord 32 w) = exec i { s with encPhase := .idle }

/-- R84, R201: a step that takes a reserved word is refused, naming the reason and `pc`. -/
def Obligations.ReservedWordIsRefused : Prop :=
  ∀ (s : State) (w : Word) (ws : List Word),
    s.encPhase = .idle → s.cmds = w :: ws → decode w = .reservedWord → s.moves.head?.getD .block = .block →
    step s = .refused (.reservedWord s.pc)

/-- R201: every refusal of a step names one of the four reasons of the spec and `pc`, and comes only in the situation
the spec gives that reason: a word no row matches; a command whose operands are out of range; CFG 0; a CBR, or a pulse
of a transmission, of a byte nothing has written. No step is refused for any other reason: none as not modelled. -/
def Obligations.RefusalsNameReasonAndPc : Prop :=
  ∀ (s : State) (r : Refusal), step s = .refused r →
    match r with
    | .reservedWord pc => pc = s.pc ∧ s.encPhase = .idle ∧ ∃ w ws, s.cmds = w :: ws ∧ decode w = .reservedWord
    | .outOfRange pc => pc = s.pc ∧ s.encPhase = .idle ∧
        ∃ w ws i, s.cmds = w :: ws ∧ decode w = .command i ∧ i.wellFormed = false ∧ ∀ p, i ≠ .cfg p
    | .periodZero pc => pc = s.pc ∧ s.encPhase = .idle ∧ ∃ w ws, s.cmds = w :: ws ∧ decode w = .command (.cfg 0)
    | .unwrittenColourByte pc => pc = s.pc ∧
        ((s.encPhase = .idle ∧ ∃ w ws ch idx, s.cmds = w :: ws ∧ decode w = .command (.cbr ch idx) ∧
            s.cb.read (3 * idx.toNat + ch.toNat) = none) ∨
          (s.encPhase = .tx ∧ s.encPos.toNat < 24 * s.encCnt.toNat ∧
            s.cb.read (3 * (s.encBase.toNat + s.encPos.toNat / 24) + s.encPos.toNat % 24 / 8) = none))
    | _ => False

/-- R39, R234: from a SEND's begin step to its quiet step no command is accepted: the master's words wait, and nothing
a command alone writes changes. (That a step which answers nothing clears the response is the model's choice: log 12;
a reset is ResetAtAnyMoment's.) -/
def Obligations.MasterWaitsDuringSend : Prop :=
  ∀ s t : State, s.encPhase ≠ .idle → s.moves.head? ≠ some .rst → step s = .next t →
    t.cmds = s.cmds ∧ t.cb = s.cb ∧ t.run = s.run ∧ t.period = s.period ∧ t.tstate = s.tstate ∧
    t.thresh = s.thresh ∧ t.tune = s.tune ∧ t.istate = s.istate ∧ t.indFlag = s.indFlag ∧
    t.indPattern = s.indPattern ∧ t.rsp = none ∧ (s.tf = true → t.tf = true)

/-! ## NOP and RDR -/

/-- R180: NOP changes no state but `pc` (and answers nothing, R94). -/
def Obligations.NopOnlyCounts : Prop :=
  ∀ s : State, exec .nop s = .next { s with pc := s.pc + 1, rsp := none }

/-- R38, R181: RDR answers each register's 16-bit value, and a number above 7 is refused. -/
def Obligations.RdrAnswersTheRegister : Prop :=
  ∀ (s : State) (reg : Byte),
    (7 < reg.toNat → exec (.rdr reg) s = .refused (.outOfRange s.pc)) ∧
    (reg.toNat ≤ 7 → ∃ v : Half, exec (.rdr reg) s = .next { s with pc := s.pc + 1, rsp := some v } ∧
      v.toNat = match reg.toNat with
        | 0 => s.tf.toNat + 2 * s.run.toNat
        | 1 => s.period.toNat
        | 2 => s.count.toNat
        | 3 => s.thresh.toNat
        | 4 => s.tune.toNat
        | 5 => (match s.tstate with
            | .start => 0
            | .hold => 1
            | .add => 2
            | .sub => 3
            | .wait => 4)
        | 6 => (match s.istate with
            | .start => 0
            | .off => 1
            | .on => 2)
        | _ => s.indPattern.toNat + 256 * s.indFlag.toNat)

/-- R67: RDR, CBR and TFRD have no side effect: they change no state but `pc`, and the same read made again gives the
same response. -/
def Obligations.ReadsHaveNoSideEffect : Prop :=
  ∀ (i : Instr) (s t : State), (∃ reg, i = .rdr reg) ∨ (∃ ch idx, i = .cbr ch idx) ∨ i = .tfrd →
    exec i s = .next t →
    t = { s with pc := s.pc + 1, rsp := t.rsp } ∧ exec i t = .next { t with pc := t.pc + 1 }

/-! ## The colour buffer -/

/-- R110: CBW writes one byte, at `3 * idx + ch`; the other channels and colours keep theirs; `pc` advances and nothing
else changes. A channel of 3 or an index of `N_MAX` and above is refused. -/
def Obligations.CbwWritesOneByte : Prop :=
  ∀ (s : State) (ch : BitVec 2) (idx val : Byte),
    (ch.toNat = 3 ∨ 60 ≤ idx.toNat → exec (.cbw ch idx val) s = .refused (.outOfRange s.pc)) ∧
    (ch.toNat < 3 → idx.toNat < 60 →
      ∃ t, exec (.cbw ch idx val) s = .next t ∧ t = { s with cb := t.cb, pc := s.pc + 1, rsp := none } ∧
        t.cb.read (3 * idx.toNat + ch.toNat) = some val ∧
        (∀ a, a ≠ 3 * idx.toNat + ch.toNat → t.cb.read a = s.cb.read a) ∧
        (s.cb.wf = true → t.cb.wf = true))

/-- R111: CBR answers the byte zero-extended and changes nothing but `pc`; an unwritten byte and an operand out of
range are refused. -/
def Obligations.CbrAnswersTheByte : Prop :=
  ∀ (s : State) (ch : BitVec 2) (idx : Byte),
    (ch.toNat = 3 ∨ 60 ≤ idx.toNat → exec (.cbr ch idx) s = .refused (.outOfRange s.pc)) ∧
    (ch.toNat < 3 → idx.toNat < 60 →
      (s.cb.read (3 * idx.toNat + ch.toNat) = none →
        exec (.cbr ch idx) s = .refused (.unwrittenColourByte s.pc)) ∧
      (∀ v, s.cb.read (3 * idx.toNat + ch.toNat) = some v →
        exec (.cbr ch idx) s = .next { s with pc := s.pc + 1, rsp := some (BitVec.ofNat 16 v.toNat) }))

/-! ## SEND -/

/-- R113: SEND's begin step latches its operands, closes delivery and starts the transmission; it writes nothing else
(`encCyc` is the model's own cycle count; `rsp`, the empty response, is the model's choice: log 12).
A frame beyond the buffer is refused. -/
def Obligations.SendBegins : Prop :=
  ∀ (s : State) (base count : Byte),
    (60 < base.toNat + count.toNat → exec (.send base count) s = .refused (.outOfRange s.pc)) ∧
    (base.toNat + count.toNat ≤ 60 → exec (.send base count) s = .next { s with
      encBase := base, encCnt := count, encPos := 0, ie := false, encPhase := .tx, encCyc := 0, rsp := none })

/-- R114: a bit step emits the one pulse of its position and advances the position; `ENC_POS`, `DOUT` and `LINE` are
all it changes, but that it clears the response, the model's choice (log 12). An unwritten byte is refused. -/
def Obligations.BitStepEmitsOnePulse : Prop :=
  ∀ s : State, s.encPhase = .tx → s.encPos.toNat < 24 * s.encCnt.toNat →
    (s.cb.read (3 * (s.encBase.toNat + s.encPos.toNat / 24) + s.encPos.toNat % 24 / 8) = none →
      blockStep s = .refused (.unwrittenColourByte s.pc)) ∧
    (∀ v, s.cb.read (3 * (s.encBase.toNat + s.encPos.toNat / 24) + s.encPos.toNat % 24 / 8) = some v →
      ∃ t, blockStep s = .next t ∧ t.encPos.toNat = s.encPos.toNat + 1 ∧
        t = { s with encPos := t.encPos, dout := false, rsp := none,
                     line := s.line ++ [.pulse (v.getLsbD (7 - s.encPos.toNat % 8))] })

/-- R115: the end-of-transmission step opens delivery, delivers the one held tick, and begins the quiet period. (That it clears the response is the model's choice: log 12.) -/
def Obligations.TransmissionEnds : Prop :=
  ∀ s : State, s.encPhase = .tx → s.encPos.toNat = 24 * s.encCnt.toNat →
    (s.tpend = false → blockStep s = .next { s with ie := true, encPhase := .quiet, rsp := none }) ∧
    (s.tpend = true → blockStep s = .next { s with
      ie := true, tpend := false, encPhase := .quiet, rsp := none
      count := (handler s).count, tf := (handler s).tf })

/-- R116: the quiet step emits `Quiet`, frees the encoder and completes the SEND. -/
def Obligations.QuietStepCompletesSend : Prop :=
  ∀ s : State, s.encPhase = .quiet →
    blockStep s = .next { s with
      line := s.line ++ [.quiet], dout := false, encPhase := .idle, pc := s.pc + 1, rsp := none }

/-- R113: while a transmission lasts no handler runs: whoever moves, `COUNT` and `TF` stay as they are and delivery
stays closed until the step that ends the transmission. -/
def Obligations.TransmissionHoldsTheHandler : Prop :=
  ∀ s t : State, s.encPhase = .tx → s.ie = false → step s = .next t → t.encPhase = .tx →
    t.count = s.count ∧ t.tf = s.tf ∧ t.ie = false ∧ (s.tpend = true → t.tpend = true)

/-- R118, with R112 and R117: a SEND of written colours, with ticks falling anywhere between its steps, appends
exactly the frame's `24 * count` pulses and then one `Quiet` to the line, completes once, leaves the buffer and both
state machines alone, and ends with delivery open. -/
def Obligations.SendTransmitsTheFrame : Prop :=
  ∀ (s : State) (base count : Byte) (rest : List Word),
    s.encPhase = .idle → s.cmds = encode (.send base count) :: rest →
    base.toNat + count.toNat ≤ 60 → coloursWritten s.cb base.toNat count.toNat →
    .rst ∉ s.moves → s.moves.count .block = 24 * count.toNat + 3 →
    ∃ t, Host.Core.run core s.moves.length s = .next t ∧
      t.line = s.line ++ framePulses s.cb base.toNat count.toNat ++ [.quiet] ∧
      (framePulses s.cb base.toNat count.toNat).length = 24 * count.toNat ∧
      t.pc = s.pc + 1 ∧ t.cb = s.cb ∧ t.cmds = rest ∧ t.encPhase = .idle ∧ t.ie = true ∧ t.tpend = false ∧
      t.dout = false ∧ t.tstate = s.tstate ∧ t.thresh = s.thresh ∧ t.tune = s.tune ∧ t.istate = s.istate ∧
      t.indFlag = s.indFlag ∧ t.indPattern = s.indPattern ∧ t.period = s.period ∧ t.run = s.run

/-- R194: the off mode's frame: the bytes of `ALLOFF n` and then `FRAME n`, with ticks falling anywhere, put `24 * n`
pulses of value 0 and one `Quiet` on the line, and leave every byte of those colours 0. -/
def Obligations.AllOffFrameIsDark : Prop :=
  ∀ (s : State) (n : Byte), n.toNat ≤ 60 → s.encPhase = .idle →
    s.cmds = ((Pseudo.allOff n).expand ++ (Pseudo.frame n).expand).map encode →
    .rst ∉ s.moves → s.moves.count .block = 3 * n.toNat + 24 * n.toNat + 3 →
    ∃ t, Host.Core.run core s.moves.length s = .next t ∧
      t.line = s.line ++ List.replicate (24 * n.toNat) (.pulse false) ++ [.quiet] ∧
      t.pc = s.pc + 3 * n.toNat + 1 ∧ t.cmds = [] ∧ t.encPhase = .idle ∧
      (∀ a, t.cb.read a = if a < 3 * n.toNat then some 0 else s.cb.read a)

/-! ## The scheduler -/

/-- R130: CFG writes `PERIOD` and `COUNT` together and nothing else but `pc`; a period of zero is refused. -/
def Obligations.CfgSetsPeriodAndCount : Prop :=
  ∀ (s : State) (imm : Half),
    (imm.toNat = 0 → exec (.cfg imm) s = .refused (.periodZero s.pc)) ∧
    (1 ≤ imm.toNat →
      exec (.cfg imm) s = .next { s with period := imm, count := imm, pc := s.pc + 1, rsp := none })

/-- R131: START enables the Tick Source, reloads the countdown and clears the divider; nothing else but `pc`. -/
def Obligations.StartEnablesTicks : Prop :=
  ∀ s : State, exec .start s = .next { s with
    run := true, count := s.period, tdiv := 0, pc := s.pc + 1, rsp := none }

/-- R132: STOP disables the Tick Source, keeps everything else but `pc`, and after it a tick step changes nothing.
(That a tick move while `RUN = 0` is no event is the model's reading, log 7; it clears the response by log 12.) -/
def Obligations.StopDisablesTicks : Prop :=
  ∀ s : State, exec .stop s = .next { s with run := false, pc := s.pc + 1, rsp := none } ∧
    ∀ t : State, t.run = false → tickStep t = { t with rsp := none }

/-- R133, R134, R135: the three flag commands: observe, clear, observe and clear in one step. -/
def Obligations.FlagCommands : Prop :=
  ∀ s : State,
    exec .tfrd s = .next { s with pc := s.pc + 1, rsp := some (if s.tf then 1 else 0) } ∧
    exec .tfclr s = .next { s with tf := false, pc := s.pc + 1, rsp := none } ∧
    exec .tftac s = .next { s with tf := false, pc := s.pc + 1, rsp := some (if s.tf then 1 else 0) }

/-- R137: the handler decrements `COUNT`; when it reaches 0 it raises `TF` and reloads `COUNT` from `PERIOD`; it
touches nothing else. On a countdown of at least 1 the subtraction does not wrap. -/
def Obligations.HandlerCountsDown : Prop :=
  ∀ s : State,
    (s.count.toNat = 1 → handler s = { s with count := s.period, tf := true }) ∧
    (2 ≤ s.count.toNat → ∃ n : Half, n.toNat = s.count.toNat - 1 ∧ handler s = { s with count := n }) ∧
    (s.count.toNat = 0 → handler s = { s with count := 65535 })

/-- R136: a tick step is enabled exactly when `RUN = 1`; with delivery open it runs the handler, else it sets `TPEND`,
and a second tick is lost. (That a tick move while `RUN = 0` is no event is the model's reading, log 7; that a tick step
clears the response is the model's choice, log 12.) -/
def Obligations.TickDeliversOrPends : Prop :=
  ∀ s : State,
    (s.run = true → s.ie = true → tickStep s = { handler s with rsp := none }) ∧
    (s.run = true → s.ie = false → tickStep s = { s with tpend := true, rsp := none }) ∧
    (s.run = false → tickStep s = { s with rsp := none })

/-- R138: counted from a CFG or START, handler run number `k` raises `TF` exactly when `PERIOD` divides `k`, and a
raised flag stays raised. -/
def Obligations.RaisesOncePerPeriod : Prop :=
  ∀ (s : State) (n : Nat), 1 ≤ s.period.toNat → s.count = s.period →
    (handler^[n] s).count.toNat = s.period.toNat - n % s.period.toNat ∧
    ((handler { handler^[n] s with tf := false }).tf = true ↔ s.period.toNat ∣ n + 1) ∧
    ((handler^[n] s).tf = true → (handler^[n + 1] s).tf = true)

/-- R139: of the k ticks that fall in a transmission the first is held and the others are lost: nothing is delivered
before the end-of-transmission step, and that step makes exactly one handler run when k is not 0. -/
def Obligations.OneTickSurvivesTheWindow : Prop :=
  ∀ (s : State) (ms : List Move),
    s.encPhase = .tx → s.ie = false → s.tpend = false → s.run = true →
    s.encPos.toNat + ms.count .block = 24 * s.encCnt.toNat →
    coloursWritten s.cb s.encBase.toNat s.encCnt.toNat → .rst ∉ ms → s.moves = ms ++ [.block] →
    ∃ u t, Host.Core.run core ms.length s = .next u ∧
      u.encPhase = .tx ∧ u.count = s.count ∧ u.tf = s.tf ∧ (u.tpend = true ↔ 1 ≤ ms.count .tick) ∧
      Host.Core.run core (ms.length + 1) s = .next t ∧
      t.encPhase = .quiet ∧ t.ie = true ∧ t.tpend = false ∧
      t.count = (if ms.count .tick = 0 then s.count else (handler s).count) ∧
      t.tf = (if ms.count .tick = 0 then s.tf else (handler s).tf)

/-! ## The Threshold Tuning State Machine -/

/-- R151: an evaluation in `Start` writes the default threshold and tune level 0 and goes to `Hold`. -/
def Obligations.TuningStartInitialises : Prop :=
  ∀ (s : State) (a b : Bool), s.tstate = .start →
    exec (.tstep a b) s = .next { s with thresh := 400, tune := 0, tstate := .hold, pc := s.pc + 1, rsp := none }

/-- R152, R158: in `Hold` one input asserted alone, with the threshold strictly inside the bound, goes to `Add` or
`Sub`; anything else, both inputs together included, stays in `Hold`; nothing but `TSTATE` and `pc` changes. -/
def Obligations.TuningHoldGates : Prop :=
  ∀ (s : State) (a b : Bool), s.tstate = .hold →
    ∃ t, exec (.tstep a b) s = .next t ∧ t = { s with tstate := t.tstate, pc := s.pc + 1, rsp := none } ∧
      (t.tstate = .add ↔ a = true ∧ b = false ∧ s.thresh.toNat < 470) ∧
      (t.tstate = .sub ↔ a = false ∧ b = true ∧ 400 < s.thresh.toNat) ∧
      (t.tstate = .add ∨ t.tstate = .sub ∨ t.tstate = .hold)

/-- R153, R154: an evaluation in `Add` (`Sub`) moves the threshold one step and the tune level one level up (down) and
goes to `Wait`, whatever the inputs are. -/
def Obligations.TuningStepsOnce : Prop :=
  ∀ (s : State) (a b : Bool),
    (s.tstate = .add → s.thresh.toNat < 470 → s.tune.toNat < 7 →
      ∃ t, exec (.tstep a b) s = .next t ∧ t.thresh.toNat = s.thresh.toNat + 10 ∧ t.tune.toNat = s.tune.toNat + 1 ∧
        t = { s with thresh := t.thresh, tune := t.tune, tstate := .wait, pc := s.pc + 1, rsp := none }) ∧
    (s.tstate = .sub → 400 < s.thresh.toNat → 0 < s.tune.toNat →
      ∃ t, exec (.tstep a b) s = .next t ∧ t.thresh.toNat + 10 = s.thresh.toNat ∧ t.tune.toNat + 1 = s.tune.toNat ∧
        t = { s with thresh := t.thresh, tune := t.tune, tstate := .wait, pc := s.pc + 1, rsp := none })

/-- R153, R154 in every state, also where `Add` or `Sub` would leave a register (no reachable state does: log 4): the
evaluation completes with its frame, each of threshold and tune level that fits its register is the rule's, and one that
does not fit is left free. (That it is free, and that the model's own counter of draws advances exactly then, is the
model's choice: log 4. Nothing rests on a value drawn.) -/
def Obligations.TuningAlwaysCompletes : Prop :=
  ∀ (s : State) (a b : Bool),
    (s.tstate = .add → ∃ t, exec (.tstep a b) s = .next t ∧
      t = { s with thresh := t.thresh, tune := t.tune, free := t.free, tstate := .wait, pc := s.pc + 1, rsp := none } ∧
      (s.thresh.toNat + 10 < 2 ^ 16 → t.thresh.toNat = s.thresh.toNat + 10) ∧
      (s.tune.toNat + 1 < 2 ^ 3 → t.tune.toNat = s.tune.toNat + 1) ∧
      t.free = if s.thresh.toNat + 10 < 2 ^ 16 ∧ s.tune.toNat + 1 < 2 ^ 3 then s.free else s.free + 1) ∧
    (s.tstate = .sub → ∃ t, exec (.tstep a b) s = .next t ∧
      t = { s with thresh := t.thresh, tune := t.tune, free := t.free, tstate := .wait, pc := s.pc + 1, rsp := none } ∧
      (10 ≤ s.thresh.toNat → t.thresh.toNat = s.thresh.toNat - 10) ∧
      (1 ≤ s.tune.toNat → t.tune.toNat = s.tune.toNat - 1) ∧
      t.free = if 10 ≤ s.thresh.toNat ∧ 1 ≤ s.tune.toNat then s.free else s.free + 1)

/-- R155: in `Wait` the machine re-arms once both inputs are released and otherwise stays. -/
def Obligations.TuningWaitsForRelease : Prop :=
  ∀ (s : State) (a b : Bool), s.tstate = .wait →
    exec (.tstep a b) s = .next { s with
      tstate := if a = false ∧ b = false then .hold else .wait, pc := s.pc + 1, rsp := none }

/-- R156, for every well-formed configuration: an evaluation in `Start` establishes the lock-step of threshold and tune
level, every evaluation keeps it, and it keeps the threshold in its bounds and the level in [0, TUNE_MAX]. -/
def Obligations.TuningStaysInBounds : Prop :=
  ∀ (c : Config) (s : State) (a b : Bool), c.wf = true → (s.tstate = .start ∨ s.TuningInv c) →
    (tuneEval c a b s).TuningInv c ∧
    c.thrMin ≤ (tuneEval c a b s).thresh.toNat ∧ (tuneEval c a b s).thresh.toNat ≤ c.thrMax

/-- R157: one gesture, however long it is held, makes exactly one step: one evaluation in `Hold` that sees the input,
one that applies the step whatever the inputs are by then, any number with an input still asserted, and one with both
released, which re-arms. -/
def Obligations.OneStepPerGesture : Prop :=
  ∀ (s : State) (x y : Bool) (held : List (Bool × Bool)),
    s.tstate = .hold → s.TuningInv config → (∀ l ∈ held, l ≠ (false, false)) →
    (s.thresh.toNat < 470 →
      ∃ t, execAll (.tstep true false :: .tstep x y :: held.map (fun l => .tstep l.1 l.2)) s = .next t ∧
        t.tstate = .wait ∧ t.thresh.toNat = s.thresh.toNat + 10 ∧ t.tune.toNat = s.tune.toNat + 1 ∧
        exec (.tstep false false) t = .next { t with tstate := .hold, pc := t.pc + 1, rsp := none }) ∧
    (400 < s.thresh.toNat →
      ∃ t, execAll (.tstep false true :: .tstep x y :: held.map (fun l => .tstep l.1 l.2)) s = .next t ∧
        t.tstate = .wait ∧ t.thresh.toNat + 10 = s.thresh.toNat ∧ t.tune.toNat + 1 = s.tune.toNat ∧
        exec (.tstep false false) t = .next { t with tstate := .hold, pc := t.pc + 1, rsp := none })

/-! ## The Indicator State Machine -/

/-- R166: an evaluation in `Start` goes to `Off` with the flag clear and the pattern "all inactive", whatever the sample
is. -/
def Obligations.IndicatorStartIgnoresSample : Prop :=
  ∀ (s : State) (sample : Half), s.istate = .start →
    exec (.istep sample) s = .next { s with
      istate := .off, indFlag := false, indPattern := 0, pc := s.pc + 1, rsp := none }

/-- R167, R169: after an evaluation in `Off` or `On` the state, the flag and the pattern are a function of the sample,
`THRESH` and `TUNE` alone; nothing else but `pc` changes. -/
def Obligations.IndicatorIsPure : Prop :=
  ∀ (s : State) (sample : Half), s.istate ≠ .start →
    (s.thresh.toNat ≤ sample.toNat → exec (.istep sample) s = .next { s with
      istate := .on, indFlag := true, indPattern := BitVec.ofNat 8 (2 ^ s.tune.toNat - 1), pc := s.pc + 1,
      rsp := none }) ∧
    (sample.toNat < s.thresh.toNat → exec (.istep sample) s = .next { s with
      istate := .off, indFlag := false, indPattern := 0, pc := s.pc + 1, rsp := none })

/-- R170: no hysteresis: samples that alternate between `THRESH - 1` and `THRESH` make the flag alternate at every
evaluation. -/
def Obligations.IndicatorHasNoHysteresis : Prop :=
  ∀ (s : State) (n : Nat), s.istate ≠ .start → 1 ≤ s.thresh.toNat →
    ∃ t, execAll ((List.range (n + 1)).map (fun k => .istep (if k % 2 = 0 then s.thresh - 1 else s.thresh))) s =
        .next t ∧ (t.indFlag = true ↔ n % 2 = 1) ∧ t.thresh = s.thresh ∧ t.pc = s.pc + (n + 1)

/-! ## Frames, completion, refusals -/

/-- R41: what an accepted command leaves unchanged: each element is written only by the commands that own it, every
byte of the buffer but the one CBW names reads as before, and only the four answering commands respond (R94). -/
def Obligations.CommandsWriteOnlyTheirOwn : Prop :=
  ∀ (i : Instr) (s t : State), exec i s = .next t →
    (∀ a, (∀ ch idx val, i = .cbw ch idx val → a ≠ colourAddr ch.toNat idx.toNat) → t.cb.read a = s.cb.read a) ∧
    ((∃ base count, i = .send base count) ∧ t.pc = s.pc ∨
      t.pc = s.pc + 1 ∧ t.encPhase = s.encPhase ∧ t.encBase = s.encBase ∧ t.encCnt = s.encCnt ∧
      t.encPos = s.encPos ∧ t.encCyc = s.encCyc ∧ t.ie = s.ie) ∧
    t.dout = s.dout ∧ t.line = s.line ∧ t.tpend = s.tpend ∧ t.cmds = s.cmds ∧ t.moves = s.moves ∧
    (i ≠ .start → i ≠ .stop → t.run = s.run) ∧ (i ≠ .start → t.tdiv = s.tdiv) ∧
    ((∀ p, i ≠ .cfg p) → t.period = s.period) ∧ ((∀ p, i ≠ .cfg p) → i ≠ .start → t.count = s.count) ∧
    (i ≠ .tfclr → i ≠ .tftac → t.tf = s.tf) ∧
    ((∀ a b, i ≠ .tstep a b) → t.tstate = s.tstate ∧ t.thresh = s.thresh ∧ t.tune = s.tune ∧ t.free = s.free) ∧
    ((∀ v, i ≠ .istep v) → t.istate = s.istate ∧ t.indFlag = s.indFlag ∧ t.indPattern = s.indPattern) ∧
    (t.rsp.isSome ↔ (∃ ch idx, i = .cbr ch idx) ∨ i = .tfrd ∨ i = .tftac ∨ (∃ reg, i = .rdr reg))

/-- R41, R30: over all agents: `TF` rises only in a handler run (a tick step, or the step that ends a transmission) and
falls only in TFCLR or TFTAC; and only a SEND's steps put events on the line, at most one each. -/
def Obligations.FlagAndLineHaveOneWriter : Prop :=
  ∀ s t : State, s.moves.head? ≠ some .rst → step s = .next t →
    (s.tf = false → t.tf = true → s.moves.head? = some .tick ∨ (s.encPhase = .tx ∧ t.encPhase = .quiet)) ∧
    (s.tf = true → t.tf = false → s.encPhase = .idle ∧
      ∃ w ws, s.cmds = w :: ws ∧ (decode w = .command .tfclr ∨ decode w = .command .tftac)) ∧
    (t.line = s.line ∨ (s.encPhase ≠ .idle ∧ s.moves.head? ≠ some .tick ∧ ∃ e, t.line = s.line ++ [e]))

/-- R84, R201: a command whose operands are out of range is refused with the reason the spec names for it, and `pc`. -/
def Obligations.OperandsOutOfRangeAreRefused : Prop :=
  ∀ (i : Instr) (s : State), i.wellFormed = false →
    exec i s = .refused (match i with
      | .cfg _ => .periodZero s.pc
      | _ => .outOfRange s.pc)

/-- R84: which operand values a command accepts: the model's check says exactly what the rule lists. -/
def Obligations.WellFormedMeansInRange : Prop :=
  ∀ i : Instr, i.wellFormed = true ↔
    match i with
    | .cbw ch idx _ => ch.toNat ≠ 3 ∧ idx.toNat < 60
    | .cbr ch idx => ch.toNat ≠ 3 ∧ idx.toNat < 60
    | .send base count => base.toNat + count.toNat ≤ 60
    | .cfg imm => imm.toNat ≠ 0
    | .rdr reg => reg.toNat ≤ 7
    | _ => True

/-- R84, R110 to R113, R130 to R135, R150, R165, R180, R181: every command completes (SEND begins) for every operand its
rule accepts, in every state; CBR where its byte has been written. (That TSTEP completes also where the sum or
difference does not fit its register is the model's choice: log 4.) -/
def Obligations.EveryCommandRuns : Prop :=
  ∀ (i : Instr) (s : State), i.wellFormed = true →
    (∀ ch idx, i = .cbr ch idx → (s.cb.read (3 * idx.toNat + ch.toNat)).isSome) → ∃ t, exec i s = .next t

/-! ## Reset and the invariant -/

/-- R42: every element is at its reset value. (The model's own fields are log 6.) -/
def Obligations.ResetValues : Prop :=
  (∀ a, State.reset.cb.read a = none) ∧ State.reset.encPhase = .idle ∧ State.reset.encBase = 0 ∧
  State.reset.encCnt = 0 ∧ State.reset.encPos = 0 ∧ State.reset.dout = false ∧ State.reset.ie = true ∧
  State.reset.tpend = false ∧ State.reset.run = false ∧ State.reset.tdiv = 0 ∧ State.reset.period = 1 ∧
  State.reset.count = 1 ∧ State.reset.tf = false ∧ State.reset.tstate = .start ∧ State.reset.thresh = 400 ∧
  State.reset.tune = 0 ∧ State.reset.istate = .start ∧ State.reset.indFlag = false ∧ State.reset.indPattern = 0 ∧
  State.reset.indOut = 0 ∧ State.reset.line = [] ∧ State.reset.pc = 0

/-- R230: a reset, also in the middle of a SEND, puts every element of the block at its reset value at once; the
master's words and the order of moves are outside the block (log 6). -/
def Obligations.ResetAtAnyMoment : Prop :=
  ∀ (s : State) (ms : List Move), s.moves = .rst :: ms →
    step s = .next { State.reset with cmds := s.cmds, moves := ms, free := s.free }

/-- The state after reset satisfies the invariant. -/
def Obligations.ResetSatisfiesInv : Prop := State.reset.Inv

/-- R24, R25, R27, R29, R35, R118, R156 together: every step of every agent keeps the invariant. -/
def Obligations.EveryStepKeepsInv : Prop := ∀ s t : State, s.Inv → step s = .next t → t.Inv

/-! ## The cycle level (timing) -/

/-- R88, R119: in a well-formed profile the slots of a 0 and of a 1 both last `SLOT_CYC` cycles and differ only in how
many of the first cycles are high, fewer for a 0. -/
def Obligations.SlotsDifferOnlyInHighTime : Prop :=
  ∀ p : Profile, p.wf = true →
    (∀ b, (waveform p (.pulse b)).length = p.slotCyc) ∧
    (∀ b k, k < p.slotCyc → (waveform p (.pulse b))[k]? = some (decide (k < if b then p.t1hCyc else p.t0hCyc))) ∧
    p.t0hCyc < p.t1hCyc

/-- R91, R6: the configuration and its profile are well formed, the reference clock's profile is the one the formulas give,
and for every configuration's times and every clock each count is the formula's: the three pulse counts the nearest whole
number of cycles, half up (`n = floor(x + 1/2)`, that is `n <= x + 1/2 < n + 1`), the quiet period rounded up. (That
`TICK_CYC` rounds down is the model's choice, log 24; that 8 MHz takes the printed counts, log 23.) -/
def Obligations.ProfilesFollowTheFormula : Prop :=
  config.wf = true ∧ config.profile = some profileA ∧ Profile.ofClock config 8000000 = profileA ∧ profileA.wf = true ∧
  ∀ (c : Config) (f : Nat), (Profile.ofClock c f).fClk = f ∧
    nearestHalfUp (Profile.ofClock c f).t0hCyc (c.t0hNs * f) ∧
    nearestHalfUp (Profile.ofClock c f).t1hCyc (c.t1hNs * f) ∧
    nearestHalfUp (Profile.ofClock c f).slotCyc (c.tSlotNs * f) ∧
    c.quietNs * f ≤ (Profile.ofClock c f).quietCyc * 1000000000 ∧
    (Profile.ofClock c f).quietCyc * 1000000000 < c.quietNs * f + 1000000000 ∧
    (Profile.ofClock c f).tickCyc * 1000000000 ≤ c.tTickNs * f ∧
    c.tTickNs * f < ((Profile.ofClock c f).tickCyc + 1) * 1000000000

/-- R9: the cycle level does nothing of its own: every clock cycle is at most three moves of the event level, on the
state with the presented word on the port, as far as the event level sees. -/
def Obligations.CyclesRefineEvents : Prop :=
  ∀ (p : Profile) (inp : CycleIn) (s t : State), cycle p inp s = .next t →
    ∃ ms : List Move, ms.length ≤ 3 ∧
      ∃ u, moveAll ms { s with cmds := if inp.cmdValid && s.cmdReady then [inp.cmd] else [] } = .next u ∧
        eventView u = eventView t

/-- R88 to R90, R244, R245: at the cycle level a SEND of written colours holds `cmd_ready` low for exactly
`24 * count * SLOT_CYC + QUIET_CYC` cycles after the one that accepts it, and puts exactly the waveform of its pulses
and of the quiet period on DOUT, slots without a gap, whatever the ports do and whenever ticks fall. (That a
cycle's level is read in the state after its edge, and at which cycle of a slot its step falls, are the model's choice:
log 10.) -/
def Obligations.SendDrivesItsWaveform : Prop :=
  ∀ (p : Profile) (s : State) (base count : Byte) (ins : List CycleIn),
    p.wf = true → s.encPhase = .idle → base.toNat + count.toNat ≤ 60 →
    coloursWritten s.cb base.toNat count.toNat → (∀ inp ∈ ins, inp.rst = false) →
    ins.length = 24 * count.toNat * p.slotCyc + p.quietCyc →
    ∃ s0 t, cycle p ⟨false, true, encode (.send base count)⟩ s = .next s0 ∧
      runCycles p ins s0 =
        some ((framePulses s.cb base.toNat count.toNat ++ [LineEvent.quiet]).flatMap (waveform p), t) ∧
      t.line = s.line ++ framePulses s.cb base.toNat count.toNat ++ [.quiet] ∧
      t.pc = s.pc + 1 ∧ t.cmdReady = true ∧
      (∀ k < ins.length, ∃ l u, runCycles p (ins.take k) s0 = some (l, u) ∧ u.cmdReady = false)

/-- R246, R27: `TDIV` counts from 0 to `TICK_CYC - 1`: no cycle takes it out of that range, nor so out of its
`ceil(log2(TICK_CYC))` bits; and from a START on, with no further command, ticks are `TICK_CYC` cycles apart, the first
`TICK_CYC` cycles after the START: after `n` cycles the handler has run `n / TICK_CYC` times. -/
def Obligations.TicksComeEveryTickCyc : Prop :=
  (∀ (p : Profile) (inp : CycleIn) (s t : State), p.wf = true → s.tdiv < p.tickCyc → cycle p inp s = .next t →
    t.tdiv < p.tickCyc ∧ t.tdiv < 2 ^ p.tdivBits) ∧
  ∀ (p : Profile) (s : State) (ins : List CycleIn),
    p.wf = true → s.encPhase = .idle → s.ie = true →
    (∀ inp ∈ ins, inp.rst = false ∧ inp.cmdValid = false) →
    ∃ s0 t, cycle p ⟨false, true, 0x31000000⟩ s = .next s0 ∧ s0.count = s.period ∧
      runCycles p ins s0 = some (List.replicate ins.length false, t) ∧
      t.tdiv = ins.length % p.tickCyc ∧
      t.count = (handler^[ins.length / p.tickCyc] s0).count ∧ t.tf = (handler^[ins.length / p.tickCyc] s0).tf

/-- R204: a tick in the cycle of a command comes first: the cycle is the command's `exec` on the state the tick left,
whatever the command is (a SEND of no colour also ends its transmission on that edge). So a TFTAC in the cycle of the
raising tick answers 1; a SEND begins after the handler has run, with `TPEND = 0`; a STOP stops after the tick is
handled. A tick in the cycle of the end-of-transmission step comes after it and runs the handler itself. (That this
step falls in the last cycle of the last slot is the model's choice, log 10; that the port's old response is gone before
the command's is log 12.) -/
def Obligations.SameCycleOrder : Prop :=
  ∀ (p : Profile) (s : State), p.wf = true → tickDue p s = true →
    (s.encPhase = .idle → ∀ (w : Word) (i : Instr), decode w = .command i → (∀ base, i ≠ .send base 0) →
      cycle p ⟨false, true, w⟩ s = exec i (tick { s with tdiv := 0, dout := false, rsp := none })) ∧
    (s.encPhase = .idle → ∀ base : Byte, base.toNat ≤ 60 →
      cycle p ⟨false, true, encode (.send base 0)⟩ s = .next { encEnd { tick s with
        tdiv := 0, dout := false, encBase := base, encCnt := 0, encPos := 0, ie := false } with encCyc := 0 }) ∧
    (s.encPhase = .idle → s.ie = true → s.tpend = false →
      (s.count = 1 → ∃ t, cycle p ⟨false, true, 0x35000000⟩ s = .next t ∧ t.rsp = some 1 ∧ t.tf = false) ∧
      (∀ base count : Byte, base.toNat + count.toNat ≤ 60 →
        ∃ t, cycle p ⟨false, true, encode (.send base count)⟩ s = .next t ∧
          t.tpend = false ∧ t.count = (handler s).count ∧ t.tf = (handler s).tf ∧ t.encPhase ≠ .idle) ∧
      (∃ t, cycle p ⟨false, true, 0x32000000⟩ s = .next t ∧ t.run = false ∧
        t.count = (handler s).count ∧ t.tf = (handler s).tf)) ∧
    (∀ inp : CycleIn, inp.rst = false → s.encPhase = .tx → s.encPos.toNat + 1 = 24 * s.encCnt.toNat →
      s.encCyc + 1 = p.slotCyc → coloursWritten s.cb s.encBase.toNat s.encCnt.toNat →
      ∃ t, cycle p inp s = .next t ∧ t.encPhase = .quiet ∧ t.ie = true ∧ t.tpend = false ∧
        t.count = (handler^[if s.tpend then 2 else 1] s).count ∧ t.tf = (handler^[if s.tpend then 2 else 1] s).tf)

/-- R233: a transmission no longer than one tick time loses no tick: over its cycles the handler runs exactly as often
as the divider wraps. In profile A that is a SEND of at most 33 colours. (That the end-of-transmission step falls on the
last slot's last edge is the model's choice: log 10. A SEND of no colour has no slot and is not meant.) -/
def Obligations.ShortFramesLoseNoTick : Prop :=
  (∀ count : Nat, 24 * count * profileA.slotCyc ≤ profileA.tickCyc ↔ count ≤ 33) ∧
  ∀ (p : Profile) (s : State) (ins : List CycleIn),
    p.wf = true → s.encPhase = .tx → s.encPos = 0 → s.encCyc = 0 → s.ie = false → s.tpend = false →
    s.run = true → s.tdiv < p.tickCyc → 1 ≤ s.encCnt.toNat →
    24 * s.encCnt.toNat * p.slotCyc ≤ p.tickCyc → coloursWritten s.cb s.encBase.toNat s.encCnt.toNat →
    (∀ inp ∈ ins, inp.rst = false) → ins.length = 24 * s.encCnt.toNat * p.slotCyc →
    ∃ l t, runCycles p ins s = some (l, t) ∧ t.encPhase = .quiet ∧ t.tpend = false ∧
      t.tdiv = (s.tdiv + ins.length) % p.tickCyc ∧
      t.count = (handler^[(s.tdiv + ins.length) / p.tickCyc] s).count ∧
      t.tf = (handler^[(s.tdiv + ins.length) / p.tickCyc] s).tf

/-! ## The pattern table, the assembler, the reference master -/

/-- R93, R36: level `k` lights exactly the `k` lowest positions, so each level lights one additional position; and the
port `IND_OUT` carries `IND_PATTERN` in every state, so after an evaluation that ends in `On` exactly the `TUNE` lowest
positions of the port are lit. -/
def Obligations.PatternLightsOnePositionPerLevel : Prop :=
  (∀ (k : BitVec 3) (i : Nat), i < 8 → ((maskAt config k).getLsbD i = true ↔ i < k.toNat)) ∧
  (∀ s : State, s.indOut = s.indPattern) ∧
  ∀ (s t : State) (sample : Half), exec (.istep sample) s = .next t → t.istate = .on →
    ∀ i, i < 8 → (t.indOut.getLsbD i = true ↔ i < t.tune.toNat)

/-- R86, R87: the assembler's examples, and what each pseudo-instruction expands to. -/
def Obligations.AssemblerExamples : Prop :=
  assemble ["CBW R, 0, 10".toList, "CBW B, 2, 0xFF ; blue".toList, "SEND 0, 3".toList, "CFG 1".toList,
      "TSTEP 1, 0".toList, "ISTEP 450".toList, "RDR 7".toList] =
    some [0x1000000A, 0x100202FF, 0x20000003, 0x30000001, 0x40000002, 0x500001C2, 0x60000007] ∧
  (∀ idx r g b : Byte, (Pseudo.clw idx r g b).expand = [.cbw 0 idx r, .cbw 1 idx g, .cbw 2 idx b]) ∧
  (∀ n : Byte, (Pseudo.allOff n).expand =
    (List.range n.toNat).flatMap (fun i => (Pseudo.clw (BitVec.ofNat 8 i) 0 0 0).expand)) ∧
  (∀ n : Byte, (Pseudo.frame n).expand = [.send 0 n]) ∧ Pseudo.observe.expand = [.tftac] ∧
  (∀ q : Half, (Pseudo.configure q).expand = [.cfg q]) ∧ Pseudo.startCall.expand = [.start] ∧
  Pseudo.stopCall.expand = [.stop]

/-- R191, R192, and a boot that keeps R232's order: from power-on the reference master starts the Tick Source, after a CFG where it wants another period
than the default; and in one outer iteration, with no tick between its commands, it issues TSTEP with the levels it
polled, TFTAC, ISTEP with a fresh sample exactly when the flag was raised, and RDR 7, and hears register 7, on which it
chooses its mode. (The boot before the loop is the model's choice, log 18: R191 gives none, and R232 fixes only that CFG
comes before START. So is TFTAC, log 18, where R191 also allows TFRD and TFCLR.) -/
def Obligations.MasterPollsThenEvaluates : Prop :=
  ∀ env : Collaborators,
    (∃ z, systemRun config env 1 (System.initial none) = .next z ∧ z.master.place = .poll ∧
      exec .start State.reset = .next z.block ∧ z.block.run = true) ∧
    (∀ p : Half, p ≠ 0 → ∃ z, systemRun config env 2 (System.initial (some p)) = .next z ∧ z.master.place = .poll ∧
      execAll [.cfg p, .start] State.reset = .next z.block ∧
      z.block.run = true ∧ z.block.period = p ∧ z.block.count = p) ∧
    ∀ y : System, y.master.place = .poll → y.block.encPhase = .idle →
      ∃ z, systemRun config env 4 y = .next z ∧
        execAll [.tstep env.a env.b, .tftac, .istep (if y.block.tf then env.latest else y.master.sample), .rdr 7]
          { y.block with cmds := [] } = .next z.block ∧
        z.master.place = .heardIndicator ∧ z.master.answer = z.block.rsp ∧ z.master.a = env.a ∧ z.master.b = env.b ∧
        z.master.sample = (if y.block.tf then env.latest else y.master.sample)
end

