-- ==== Sys2Proof/Laws/Config.lean ====
section
/-! SUPPORT. The reference constants, one lemma per field of the configuration the model is built for. -/

namespace Sys2Proof

@[simp] theorem config_nLeds : config.nLeds = 60 := rfl
@[simp] theorem config_nMax : config.nMax = 60 := rfl
@[simp] theorem config_thrMin : config.thrMin = 400 := rfl
@[simp] theorem config_thrMax : config.thrMax = 470 := rfl
@[simp] theorem config_thrStep : config.thrStep = 10 := rfl
@[simp] theorem config_tuneMax : config.tuneMax = 7 := rfl
@[simp] theorem config_thrDefault : config.thrDefault = 400 := rfl
@[simp] theorem config_periodDefault : config.periodDefault = 1 := rfl
@[simp] theorem config_burstFrames : config.burstFrames = 50 := rfl

/-- What R6 says of a well-formed configuration's numbers. -/
theorem Config.wf_bounds {c : Config} (h : c.wf = true) :
    c.nMax ≤ 255 ∧ c.thrMin < c.thrMax ∧ c.thrMax < 2 ^ 16 ∧ 1 ≤ c.thrStep ∧
    c.thrMax = c.thrMin + c.tuneMax * c.thrStep ∧ c.thrDefault = c.thrMin ∧ c.tuneMax ≤ 7 ∧ c.mask.length = 8 := by
  simp only [Config.wf, Bool.and_eq_true, decide_eq_true_eq] at h
  omega

/-- What R6 says of a well-formed profile. -/
theorem Profile.wf_bounds {p : Profile} (h : p.wf = true) :
    0 < p.t0hCyc ∧ p.t0hCyc < p.t1hCyc ∧ p.t1hCyc < p.slotCyc ∧ 0 < p.quietCyc ∧ 0 < p.tickCyc := by
  simp only [Profile.wf, Bool.and_eq_true, decide_eq_true_eq] at h
  omega

end Sys2Proof
end

