-- ==== Sys2Proof/Laws/State.lean ====
section
/-! SUPPORT. One lemma per field per named update of State, each true by rfl: no later proof unfolds a record
update. -/

namespace Sys2Proof.Machine

variable (s : State)

@[simp] theorem State.complete_cb : s.complete.cb = s.cb := rfl
@[simp] theorem State.complete_encPhase : s.complete.encPhase = s.encPhase := rfl
@[simp] theorem State.complete_encBase : s.complete.encBase = s.encBase := rfl
@[simp] theorem State.complete_encCnt : s.complete.encCnt = s.encCnt := rfl
@[simp] theorem State.complete_encPos : s.complete.encPos = s.encPos := rfl
@[simp] theorem State.complete_dout : s.complete.dout = s.dout := rfl
@[simp] theorem State.complete_ie : s.complete.ie = s.ie := rfl
@[simp] theorem State.complete_tpend : s.complete.tpend = s.tpend := rfl
@[simp] theorem State.complete_run : s.complete.run = s.run := rfl
@[simp] theorem State.complete_tdiv : s.complete.tdiv = s.tdiv := rfl
@[simp] theorem State.complete_period : s.complete.period = s.period := rfl
@[simp] theorem State.complete_count : s.complete.count = s.count := rfl
@[simp] theorem State.complete_tf : s.complete.tf = s.tf := rfl
@[simp] theorem State.complete_tstate : s.complete.tstate = s.tstate := rfl
@[simp] theorem State.complete_thresh : s.complete.thresh = s.thresh := rfl
@[simp] theorem State.complete_tune : s.complete.tune = s.tune := rfl
@[simp] theorem State.complete_istate : s.complete.istate = s.istate := rfl
@[simp] theorem State.complete_indFlag : s.complete.indFlag = s.indFlag := rfl
@[simp] theorem State.complete_indPattern : s.complete.indPattern = s.indPattern := rfl
@[simp] theorem State.complete_line : s.complete.line = s.line := rfl
@[simp] theorem State.complete_pc : s.complete.pc = s.pc + 1 := rfl
@[simp] theorem State.complete_rsp : s.complete.rsp = none := rfl
@[simp] theorem State.complete_cmds : s.complete.cmds = s.cmds := rfl
@[simp] theorem State.complete_moves : s.complete.moves = s.moves := rfl
@[simp] theorem State.complete_encCyc : s.complete.encCyc = s.encCyc := rfl
@[simp] theorem State.complete_free : s.complete.free = s.free := rfl

@[simp] theorem State.respond_cb (v : Half) : (s.respond v).cb = s.cb := rfl
@[simp] theorem State.respond_encPhase (v : Half) : (s.respond v).encPhase = s.encPhase := rfl
@[simp] theorem State.respond_encBase (v : Half) : (s.respond v).encBase = s.encBase := rfl
@[simp] theorem State.respond_encCnt (v : Half) : (s.respond v).encCnt = s.encCnt := rfl
@[simp] theorem State.respond_encPos (v : Half) : (s.respond v).encPos = s.encPos := rfl
@[simp] theorem State.respond_dout (v : Half) : (s.respond v).dout = s.dout := rfl
@[simp] theorem State.respond_ie (v : Half) : (s.respond v).ie = s.ie := rfl
@[simp] theorem State.respond_tpend (v : Half) : (s.respond v).tpend = s.tpend := rfl
@[simp] theorem State.respond_run (v : Half) : (s.respond v).run = s.run := rfl
@[simp] theorem State.respond_tdiv (v : Half) : (s.respond v).tdiv = s.tdiv := rfl
@[simp] theorem State.respond_period (v : Half) : (s.respond v).period = s.period := rfl
@[simp] theorem State.respond_count (v : Half) : (s.respond v).count = s.count := rfl
@[simp] theorem State.respond_tf (v : Half) : (s.respond v).tf = s.tf := rfl
@[simp] theorem State.respond_tstate (v : Half) : (s.respond v).tstate = s.tstate := rfl
@[simp] theorem State.respond_thresh (v : Half) : (s.respond v).thresh = s.thresh := rfl
@[simp] theorem State.respond_tune (v : Half) : (s.respond v).tune = s.tune := rfl
@[simp] theorem State.respond_istate (v : Half) : (s.respond v).istate = s.istate := rfl
@[simp] theorem State.respond_indFlag (v : Half) : (s.respond v).indFlag = s.indFlag := rfl
@[simp] theorem State.respond_indPattern (v : Half) : (s.respond v).indPattern = s.indPattern := rfl
@[simp] theorem State.respond_line (v : Half) : (s.respond v).line = s.line := rfl
@[simp] theorem State.respond_pc (v : Half) : (s.respond v).pc = s.pc + 1 := rfl
@[simp] theorem State.respond_rsp (v : Half) : (s.respond v).rsp = some v := rfl
@[simp] theorem State.respond_cmds (v : Half) : (s.respond v).cmds = s.cmds := rfl
@[simp] theorem State.respond_moves (v : Half) : (s.respond v).moves = s.moves := rfl
@[simp] theorem State.respond_encCyc (v : Half) : (s.respond v).encCyc = s.encCyc := rfl
@[simp] theorem State.respond_free (v : Half) : (s.respond v).free = s.free := rfl

@[simp] theorem State.silent_cb : s.silent.cb = s.cb := rfl
@[simp] theorem State.silent_encPhase : s.silent.encPhase = s.encPhase := rfl
@[simp] theorem State.silent_encBase : s.silent.encBase = s.encBase := rfl
@[simp] theorem State.silent_encCnt : s.silent.encCnt = s.encCnt := rfl
@[simp] theorem State.silent_encPos : s.silent.encPos = s.encPos := rfl
@[simp] theorem State.silent_dout : s.silent.dout = s.dout := rfl
@[simp] theorem State.silent_ie : s.silent.ie = s.ie := rfl
@[simp] theorem State.silent_tpend : s.silent.tpend = s.tpend := rfl
@[simp] theorem State.silent_run : s.silent.run = s.run := rfl
@[simp] theorem State.silent_tdiv : s.silent.tdiv = s.tdiv := rfl
@[simp] theorem State.silent_period : s.silent.period = s.period := rfl
@[simp] theorem State.silent_count : s.silent.count = s.count := rfl
@[simp] theorem State.silent_tf : s.silent.tf = s.tf := rfl
@[simp] theorem State.silent_tstate : s.silent.tstate = s.tstate := rfl
@[simp] theorem State.silent_thresh : s.silent.thresh = s.thresh := rfl
@[simp] theorem State.silent_tune : s.silent.tune = s.tune := rfl
@[simp] theorem State.silent_istate : s.silent.istate = s.istate := rfl
@[simp] theorem State.silent_indFlag : s.silent.indFlag = s.indFlag := rfl
@[simp] theorem State.silent_indPattern : s.silent.indPattern = s.indPattern := rfl
@[simp] theorem State.silent_line : s.silent.line = s.line := rfl
@[simp] theorem State.silent_pc : s.silent.pc = s.pc := rfl
@[simp] theorem State.silent_rsp : s.silent.rsp = none := rfl
@[simp] theorem State.silent_cmds : s.silent.cmds = s.cmds := rfl
@[simp] theorem State.silent_moves : s.silent.moves = s.moves := rfl
@[simp] theorem State.silent_encCyc : s.silent.encCyc = s.encCyc := rfl
@[simp] theorem State.silent_free : s.silent.free = s.free := rfl

@[simp] theorem State.emit_cb (e : LineEvent) : (s.emit e).cb = s.cb := rfl
@[simp] theorem State.emit_encPhase (e : LineEvent) : (s.emit e).encPhase = s.encPhase := rfl
@[simp] theorem State.emit_encBase (e : LineEvent) : (s.emit e).encBase = s.encBase := rfl
@[simp] theorem State.emit_encCnt (e : LineEvent) : (s.emit e).encCnt = s.encCnt := rfl
@[simp] theorem State.emit_encPos (e : LineEvent) : (s.emit e).encPos = s.encPos := rfl
@[simp] theorem State.emit_dout (e : LineEvent) : (s.emit e).dout = false := rfl
@[simp] theorem State.emit_ie (e : LineEvent) : (s.emit e).ie = s.ie := rfl
@[simp] theorem State.emit_tpend (e : LineEvent) : (s.emit e).tpend = s.tpend := rfl
@[simp] theorem State.emit_run (e : LineEvent) : (s.emit e).run = s.run := rfl
@[simp] theorem State.emit_tdiv (e : LineEvent) : (s.emit e).tdiv = s.tdiv := rfl
@[simp] theorem State.emit_period (e : LineEvent) : (s.emit e).period = s.period := rfl
@[simp] theorem State.emit_count (e : LineEvent) : (s.emit e).count = s.count := rfl
@[simp] theorem State.emit_tf (e : LineEvent) : (s.emit e).tf = s.tf := rfl
@[simp] theorem State.emit_tstate (e : LineEvent) : (s.emit e).tstate = s.tstate := rfl
@[simp] theorem State.emit_thresh (e : LineEvent) : (s.emit e).thresh = s.thresh := rfl
@[simp] theorem State.emit_tune (e : LineEvent) : (s.emit e).tune = s.tune := rfl
@[simp] theorem State.emit_istate (e : LineEvent) : (s.emit e).istate = s.istate := rfl
@[simp] theorem State.emit_indFlag (e : LineEvent) : (s.emit e).indFlag = s.indFlag := rfl
@[simp] theorem State.emit_indPattern (e : LineEvent) : (s.emit e).indPattern = s.indPattern := rfl
@[simp] theorem State.emit_line (e : LineEvent) : (s.emit e).line = s.line ++ [e] := rfl
@[simp] theorem State.emit_pc (e : LineEvent) : (s.emit e).pc = s.pc := rfl
@[simp] theorem State.emit_rsp (e : LineEvent) : (s.emit e).rsp = s.rsp := rfl
@[simp] theorem State.emit_cmds (e : LineEvent) : (s.emit e).cmds = s.cmds := rfl
@[simp] theorem State.emit_moves (e : LineEvent) : (s.emit e).moves = s.moves := rfl
@[simp] theorem State.emit_encCyc (e : LineEvent) : (s.emit e).encCyc = s.encCyc := rfl
@[simp] theorem State.emit_free (e : LineEvent) : (s.emit e).free = s.free := rfl

@[simp] theorem State.raiseTF_cb : s.raiseTF.cb = s.cb := rfl
@[simp] theorem State.raiseTF_encPhase : s.raiseTF.encPhase = s.encPhase := rfl
@[simp] theorem State.raiseTF_encBase : s.raiseTF.encBase = s.encBase := rfl
@[simp] theorem State.raiseTF_encCnt : s.raiseTF.encCnt = s.encCnt := rfl
@[simp] theorem State.raiseTF_encPos : s.raiseTF.encPos = s.encPos := rfl
@[simp] theorem State.raiseTF_dout : s.raiseTF.dout = s.dout := rfl
@[simp] theorem State.raiseTF_ie : s.raiseTF.ie = s.ie := rfl
@[simp] theorem State.raiseTF_tpend : s.raiseTF.tpend = s.tpend := rfl
@[simp] theorem State.raiseTF_run : s.raiseTF.run = s.run := rfl
@[simp] theorem State.raiseTF_tdiv : s.raiseTF.tdiv = s.tdiv := rfl
@[simp] theorem State.raiseTF_period : s.raiseTF.period = s.period := rfl
@[simp] theorem State.raiseTF_count : s.raiseTF.count = s.count := rfl
@[simp] theorem State.raiseTF_tf : s.raiseTF.tf = true := rfl
@[simp] theorem State.raiseTF_tstate : s.raiseTF.tstate = s.tstate := rfl
@[simp] theorem State.raiseTF_thresh : s.raiseTF.thresh = s.thresh := rfl
@[simp] theorem State.raiseTF_tune : s.raiseTF.tune = s.tune := rfl
@[simp] theorem State.raiseTF_istate : s.raiseTF.istate = s.istate := rfl
@[simp] theorem State.raiseTF_indFlag : s.raiseTF.indFlag = s.indFlag := rfl
@[simp] theorem State.raiseTF_indPattern : s.raiseTF.indPattern = s.indPattern := rfl
@[simp] theorem State.raiseTF_line : s.raiseTF.line = s.line := rfl
@[simp] theorem State.raiseTF_pc : s.raiseTF.pc = s.pc := rfl
@[simp] theorem State.raiseTF_rsp : s.raiseTF.rsp = s.rsp := rfl
@[simp] theorem State.raiseTF_cmds : s.raiseTF.cmds = s.cmds := rfl
@[simp] theorem State.raiseTF_moves : s.raiseTF.moves = s.moves := rfl
@[simp] theorem State.raiseTF_encCyc : s.raiseTF.encCyc = s.encCyc := rfl
@[simp] theorem State.raiseTF_free : s.raiseTF.free = s.free := rfl

@[simp] theorem State.clearTF_cb : s.clearTF.cb = s.cb := rfl
@[simp] theorem State.clearTF_encPhase : s.clearTF.encPhase = s.encPhase := rfl
@[simp] theorem State.clearTF_encBase : s.clearTF.encBase = s.encBase := rfl
@[simp] theorem State.clearTF_encCnt : s.clearTF.encCnt = s.encCnt := rfl
@[simp] theorem State.clearTF_encPos : s.clearTF.encPos = s.encPos := rfl
@[simp] theorem State.clearTF_dout : s.clearTF.dout = s.dout := rfl
@[simp] theorem State.clearTF_ie : s.clearTF.ie = s.ie := rfl
@[simp] theorem State.clearTF_tpend : s.clearTF.tpend = s.tpend := rfl
@[simp] theorem State.clearTF_run : s.clearTF.run = s.run := rfl
@[simp] theorem State.clearTF_tdiv : s.clearTF.tdiv = s.tdiv := rfl
@[simp] theorem State.clearTF_period : s.clearTF.period = s.period := rfl
@[simp] theorem State.clearTF_count : s.clearTF.count = s.count := rfl
@[simp] theorem State.clearTF_tf : s.clearTF.tf = false := rfl
@[simp] theorem State.clearTF_tstate : s.clearTF.tstate = s.tstate := rfl
@[simp] theorem State.clearTF_thresh : s.clearTF.thresh = s.thresh := rfl
@[simp] theorem State.clearTF_tune : s.clearTF.tune = s.tune := rfl
@[simp] theorem State.clearTF_istate : s.clearTF.istate = s.istate := rfl
@[simp] theorem State.clearTF_indFlag : s.clearTF.indFlag = s.indFlag := rfl
@[simp] theorem State.clearTF_indPattern : s.clearTF.indPattern = s.indPattern := rfl
@[simp] theorem State.clearTF_line : s.clearTF.line = s.line := rfl
@[simp] theorem State.clearTF_pc : s.clearTF.pc = s.pc := rfl
@[simp] theorem State.clearTF_rsp : s.clearTF.rsp = s.rsp := rfl
@[simp] theorem State.clearTF_cmds : s.clearTF.cmds = s.cmds := rfl
@[simp] theorem State.clearTF_moves : s.clearTF.moves = s.moves := rfl
@[simp] theorem State.clearTF_encCyc : s.clearTF.encCyc = s.encCyc := rfl
@[simp] theorem State.clearTF_free : s.clearTF.free = s.free := rfl

@[simp] theorem State.indicate_cb (c : Config) (on : Bool) : (s.indicate c on).cb = s.cb := rfl
@[simp] theorem State.indicate_encPhase (c : Config) (on : Bool) : (s.indicate c on).encPhase = s.encPhase := rfl
@[simp] theorem State.indicate_encBase (c : Config) (on : Bool) : (s.indicate c on).encBase = s.encBase := rfl
@[simp] theorem State.indicate_encCnt (c : Config) (on : Bool) : (s.indicate c on).encCnt = s.encCnt := rfl
@[simp] theorem State.indicate_encPos (c : Config) (on : Bool) : (s.indicate c on).encPos = s.encPos := rfl
@[simp] theorem State.indicate_dout (c : Config) (on : Bool) : (s.indicate c on).dout = s.dout := rfl
@[simp] theorem State.indicate_ie (c : Config) (on : Bool) : (s.indicate c on).ie = s.ie := rfl
@[simp] theorem State.indicate_tpend (c : Config) (on : Bool) : (s.indicate c on).tpend = s.tpend := rfl
@[simp] theorem State.indicate_run (c : Config) (on : Bool) : (s.indicate c on).run = s.run := rfl
@[simp] theorem State.indicate_tdiv (c : Config) (on : Bool) : (s.indicate c on).tdiv = s.tdiv := rfl
@[simp] theorem State.indicate_period (c : Config) (on : Bool) : (s.indicate c on).period = s.period := rfl
@[simp] theorem State.indicate_count (c : Config) (on : Bool) : (s.indicate c on).count = s.count := rfl
@[simp] theorem State.indicate_tf (c : Config) (on : Bool) : (s.indicate c on).tf = s.tf := rfl
@[simp] theorem State.indicate_tstate (c : Config) (on : Bool) : (s.indicate c on).tstate = s.tstate := rfl
@[simp] theorem State.indicate_thresh (c : Config) (on : Bool) : (s.indicate c on).thresh = s.thresh := rfl
@[simp] theorem State.indicate_tune (c : Config) (on : Bool) : (s.indicate c on).tune = s.tune := rfl
@[simp] theorem State.indicate_istate (c : Config) (on : Bool) : (s.indicate c on).istate = if on then .on else .off := rfl
@[simp] theorem State.indicate_indFlag (c : Config) (on : Bool) : (s.indicate c on).indFlag = on := rfl
@[simp] theorem State.indicate_indPattern (c : Config) (on : Bool) : (s.indicate c on).indPattern = if on then maskAt c s.tune else 0x00 := rfl
@[simp] theorem State.indicate_line (c : Config) (on : Bool) : (s.indicate c on).line = s.line := rfl
@[simp] theorem State.indicate_pc (c : Config) (on : Bool) : (s.indicate c on).pc = s.pc := rfl
@[simp] theorem State.indicate_rsp (c : Config) (on : Bool) : (s.indicate c on).rsp = s.rsp := rfl
@[simp] theorem State.indicate_cmds (c : Config) (on : Bool) : (s.indicate c on).cmds = s.cmds := rfl
@[simp] theorem State.indicate_moves (c : Config) (on : Bool) : (s.indicate c on).moves = s.moves := rfl
@[simp] theorem State.indicate_encCyc (c : Config) (on : Bool) : (s.indicate c on).encCyc = s.encCyc := rfl
@[simp] theorem State.indicate_free (c : Config) (on : Bool) : (s.indicate c on).free = s.free := rfl

@[simp] theorem resetBlock_cb : (resetBlock s).cb = State.reset.cb := rfl
@[simp] theorem resetBlock_encPhase : (resetBlock s).encPhase = State.reset.encPhase := rfl
@[simp] theorem resetBlock_encBase : (resetBlock s).encBase = State.reset.encBase := rfl
@[simp] theorem resetBlock_encCnt : (resetBlock s).encCnt = State.reset.encCnt := rfl
@[simp] theorem resetBlock_encPos : (resetBlock s).encPos = State.reset.encPos := rfl
@[simp] theorem resetBlock_dout : (resetBlock s).dout = State.reset.dout := rfl
@[simp] theorem resetBlock_ie : (resetBlock s).ie = State.reset.ie := rfl
@[simp] theorem resetBlock_tpend : (resetBlock s).tpend = State.reset.tpend := rfl
@[simp] theorem resetBlock_run : (resetBlock s).run = State.reset.run := rfl
@[simp] theorem resetBlock_tdiv : (resetBlock s).tdiv = State.reset.tdiv := rfl
@[simp] theorem resetBlock_period : (resetBlock s).period = State.reset.period := rfl
@[simp] theorem resetBlock_count : (resetBlock s).count = State.reset.count := rfl
@[simp] theorem resetBlock_tf : (resetBlock s).tf = State.reset.tf := rfl
@[simp] theorem resetBlock_tstate : (resetBlock s).tstate = State.reset.tstate := rfl
@[simp] theorem resetBlock_thresh : (resetBlock s).thresh = State.reset.thresh := rfl
@[simp] theorem resetBlock_tune : (resetBlock s).tune = State.reset.tune := rfl
@[simp] theorem resetBlock_istate : (resetBlock s).istate = State.reset.istate := rfl
@[simp] theorem resetBlock_indFlag : (resetBlock s).indFlag = State.reset.indFlag := rfl
@[simp] theorem resetBlock_indPattern : (resetBlock s).indPattern = State.reset.indPattern := rfl
@[simp] theorem resetBlock_line : (resetBlock s).line = State.reset.line := rfl
@[simp] theorem resetBlock_pc : (resetBlock s).pc = State.reset.pc := rfl
@[simp] theorem resetBlock_rsp : (resetBlock s).rsp = State.reset.rsp := rfl
@[simp] theorem resetBlock_cmds : (resetBlock s).cmds = s.cmds := rfl
@[simp] theorem resetBlock_moves : (resetBlock s).moves = s.moves := rfl
@[simp] theorem resetBlock_encCyc : (resetBlock s).encCyc = State.reset.encCyc := rfl
@[simp] theorem resetBlock_free : (resetBlock s).free = s.free := rfl

end Sys2Proof.Machine
end

