-- ==== Sys2Proof/Laws/Ops.lean ====
section
/-! SUPPORT. What each shared operation can do, said once: the handler, the tick, opening the gate, the tick step. -/

namespace Sys2Proof.Machine

/-- R137: the two things a handler run can do. -/
theorem handler_cases (s : State) :
    (s.count - 1 = 0 ∧ handler s = { s with count := s.period, tf := true }) ∨
    (s.count - 1 ≠ 0 ∧ handler s = { s with count := s.count - 1 }) := by
  by_cases h : s.count - 1 = 0
  · exact .inl ⟨h, if_pos h⟩
  · exact .inr ⟨h, if_neg h⟩

/-- A handler run writes `COUNT` and `TF` and nothing else (R137). -/
theorem handler_eq (s : State) : handler s = { s with count := (handler s).count, tf := (handler s).tf } := by
  rcases handler_cases s with ⟨_, h⟩ | ⟨_, h⟩ <;> simp [h]

/-- R137 on a nonzero countdown: the raise is at 1. -/
theorem handler_of_count {s : State} (h : 1 ≤ s.count.toNat) :
    handler s = if s.count.toNat = 1 then { s with count := s.period, tf := true }
      else { s with count := BitVec.ofNat 16 (s.count.toNat - 1) } := by
  have hlt := s.count.isLt
  have e : s.count - 1 = BitVec.ofNat 16 (s.count.toNat - 1) := by
    apply BitVec.eq_of_toNat_eq
    have h1 : (1 : Half).toNat = 1 := rfl
    rw [BitVec.toNat_sub, BitVec.toNat_ofNat, h1]
    omega
  rcases handler_cases s with ⟨h0, he⟩ | ⟨h0, he⟩
  · rw [if_pos, he]
    have := congrArg BitVec.toNat h0
    have hz : (0 : Half).toNat = 0 := rfl
    rw [e, BitVec.toNat_ofNat, hz] at this
    omega
  · rw [if_neg, he, e]
    intro h1
    apply h0
    rw [e, h1]; rfl

/-- R136: the three things a tick event can do. -/
theorem tick_cases (s : State) :
    (s.ie = true ∧ tick s = handler s) ∨ (s.ie = false ∧ s.tpend = true ∧ tick s = s) ∨
    (s.ie = false ∧ s.tpend = false ∧ tick s = { s with tpend := true }) := by
  cases h : s.ie <;> cases h2 : s.tpend <;> simp [tick, h, h2]

/-- A tick event writes `COUNT`, `TF` and `TPEND` and nothing else. -/
theorem tick_eq (s : State) :
    tick s = { s with count := (tick s).count, tf := (tick s).tf, tpend := (tick s).tpend } := by
  rcases tick_cases s with ⟨_, h⟩ | ⟨_, _, h⟩ | ⟨_, _, h⟩
  · rw [h, handler_eq s]
  · rw [h]
  · rw [h]

/-- R115: the two things opening the gate can do. -/
theorem openGate_cases (s : State) :
    (s.tpend = true ∧ openGate s = handler { s with ie := true, tpend := false }) ∨
    (s.tpend = false ∧ openGate s = { s with ie := true }) := by
  cases h : s.tpend <;> simp [openGate, h]

/-- Opening the gate leaves `IE = 1`, `TPEND = 0`, and writes only those, `COUNT` and `TF`. -/
theorem openGate_eq (s : State) :
    openGate s = { s with ie := true, tpend := false, count := (openGate s).count, tf := (openGate s).tf } := by
  rcases openGate_cases s with ⟨_, h⟩ | ⟨h0, h⟩
  · rw [h, handler_eq { s with ie := true, tpend := false }]
  · rw [h]; simp [← h0]

/-- The tick step is a tick event while `RUN = 1` and nothing otherwise (R136). -/
theorem tickStep_cases (s : State) :
    (s.run = true ∧ tickStep s = (tick s).silent) ∨ (s.run = false ∧ tickStep s = s.silent) := by
  cases h : s.run <;> simp [tickStep, h]

/-! What the handler, a tick event and opening the gate leave alone, and what they write, one lemma per field. -/

@[simp] theorem handler_count (s : State) :
    (handler s).count = if s.count - 1 = 0 then s.period else s.count - 1 := by
  rcases handler_cases s with ⟨h0, h⟩ | ⟨h0, h⟩
  · rw [h, if_pos h0]
  · rw [h, if_neg h0]

@[simp] theorem handler_tf (s : State) : (handler s).tf = (s.tf || decide (s.count - 1 = 0)) := by
  rcases handler_cases s with ⟨h0, h⟩ | ⟨h0, h⟩
  · rw [h, decide_eq_true h0, Bool.or_true]
  · rw [h, decide_eq_false h0, Bool.or_false]

@[simp] theorem handler_cb (s : State) : (handler s).cb = s.cb := by rw [handler_eq]
@[simp] theorem handler_encPhase (s : State) : (handler s).encPhase = s.encPhase := by rw [handler_eq]
@[simp] theorem handler_encBase (s : State) : (handler s).encBase = s.encBase := by rw [handler_eq]
@[simp] theorem handler_encCnt (s : State) : (handler s).encCnt = s.encCnt := by rw [handler_eq]
@[simp] theorem handler_encPos (s : State) : (handler s).encPos = s.encPos := by rw [handler_eq]
@[simp] theorem handler_dout (s : State) : (handler s).dout = s.dout := by rw [handler_eq]
@[simp] theorem handler_ie (s : State) : (handler s).ie = s.ie := by rw [handler_eq]
@[simp] theorem handler_tpend (s : State) : (handler s).tpend = s.tpend := by rw [handler_eq]
@[simp] theorem handler_run (s : State) : (handler s).run = s.run := by rw [handler_eq]
@[simp] theorem handler_tdiv (s : State) : (handler s).tdiv = s.tdiv := by rw [handler_eq]
@[simp] theorem handler_period (s : State) : (handler s).period = s.period := by rw [handler_eq]
@[simp] theorem handler_tstate (s : State) : (handler s).tstate = s.tstate := by rw [handler_eq]
@[simp] theorem handler_thresh (s : State) : (handler s).thresh = s.thresh := by rw [handler_eq]
@[simp] theorem handler_tune (s : State) : (handler s).tune = s.tune := by rw [handler_eq]
@[simp] theorem handler_istate (s : State) : (handler s).istate = s.istate := by rw [handler_eq]
@[simp] theorem handler_indFlag (s : State) : (handler s).indFlag = s.indFlag := by rw [handler_eq]
@[simp] theorem handler_indPattern (s : State) : (handler s).indPattern = s.indPattern := by rw [handler_eq]
@[simp] theorem handler_line (s : State) : (handler s).line = s.line := by rw [handler_eq]
@[simp] theorem handler_pc (s : State) : (handler s).pc = s.pc := by rw [handler_eq]
@[simp] theorem handler_rsp (s : State) : (handler s).rsp = s.rsp := by rw [handler_eq]
@[simp] theorem handler_cmds (s : State) : (handler s).cmds = s.cmds := by rw [handler_eq]
@[simp] theorem handler_moves (s : State) : (handler s).moves = s.moves := by rw [handler_eq]
@[simp] theorem handler_encCyc (s : State) : (handler s).encCyc = s.encCyc := by rw [handler_eq]
@[simp] theorem handler_free (s : State) : (handler s).free = s.free := by rw [handler_eq]

@[simp] theorem tick_cb (s : State) : (tick s).cb = s.cb := by rw [tick_eq]
@[simp] theorem tick_encPhase (s : State) : (tick s).encPhase = s.encPhase := by rw [tick_eq]
@[simp] theorem tick_encBase (s : State) : (tick s).encBase = s.encBase := by rw [tick_eq]
@[simp] theorem tick_encCnt (s : State) : (tick s).encCnt = s.encCnt := by rw [tick_eq]
@[simp] theorem tick_encPos (s : State) : (tick s).encPos = s.encPos := by rw [tick_eq]
@[simp] theorem tick_dout (s : State) : (tick s).dout = s.dout := by rw [tick_eq]
@[simp] theorem tick_ie (s : State) : (tick s).ie = s.ie := by rw [tick_eq]
@[simp] theorem tick_run (s : State) : (tick s).run = s.run := by rw [tick_eq]
@[simp] theorem tick_tdiv (s : State) : (tick s).tdiv = s.tdiv := by rw [tick_eq]
@[simp] theorem tick_period (s : State) : (tick s).period = s.period := by rw [tick_eq]
@[simp] theorem tick_tstate (s : State) : (tick s).tstate = s.tstate := by rw [tick_eq]
@[simp] theorem tick_thresh (s : State) : (tick s).thresh = s.thresh := by rw [tick_eq]
@[simp] theorem tick_tune (s : State) : (tick s).tune = s.tune := by rw [tick_eq]
@[simp] theorem tick_istate (s : State) : (tick s).istate = s.istate := by rw [tick_eq]
@[simp] theorem tick_indFlag (s : State) : (tick s).indFlag = s.indFlag := by rw [tick_eq]
@[simp] theorem tick_indPattern (s : State) : (tick s).indPattern = s.indPattern := by rw [tick_eq]
@[simp] theorem tick_line (s : State) : (tick s).line = s.line := by rw [tick_eq]
@[simp] theorem tick_pc (s : State) : (tick s).pc = s.pc := by rw [tick_eq]
@[simp] theorem tick_rsp (s : State) : (tick s).rsp = s.rsp := by rw [tick_eq]
@[simp] theorem tick_cmds (s : State) : (tick s).cmds = s.cmds := by rw [tick_eq]
@[simp] theorem tick_moves (s : State) : (tick s).moves = s.moves := by rw [tick_eq]
@[simp] theorem tick_encCyc (s : State) : (tick s).encCyc = s.encCyc := by rw [tick_eq]
@[simp] theorem tick_free (s : State) : (tick s).free = s.free := by rw [tick_eq]

@[simp] theorem openGate_ie (s : State) : (openGate s).ie = true := by rw [openGate_eq]
@[simp] theorem openGate_tpend (s : State) : (openGate s).tpend = false := by rw [openGate_eq]

/-- R115: what opening the gate does to the countdown and the flag: one handler run when a tick is held. -/
theorem openGate_delivers (s : State) :
    (openGate s).count = (if s.tpend then (handler s).count else s.count) ∧
    (openGate s).tf = (if s.tpend then (handler s).tf else s.tf) := by
  rcases openGate_cases s with ⟨h0, h⟩ | ⟨h0, h⟩ <;> rw [h, h0] <;> simp

@[simp] theorem openGate_cb (s : State) : (openGate s).cb = s.cb := by rw [openGate_eq]
@[simp] theorem openGate_encPhase (s : State) : (openGate s).encPhase = s.encPhase := by rw [openGate_eq]
@[simp] theorem openGate_encBase (s : State) : (openGate s).encBase = s.encBase := by rw [openGate_eq]
@[simp] theorem openGate_encCnt (s : State) : (openGate s).encCnt = s.encCnt := by rw [openGate_eq]
@[simp] theorem openGate_encPos (s : State) : (openGate s).encPos = s.encPos := by rw [openGate_eq]
@[simp] theorem openGate_dout (s : State) : (openGate s).dout = s.dout := by rw [openGate_eq]
@[simp] theorem openGate_run (s : State) : (openGate s).run = s.run := by rw [openGate_eq]
@[simp] theorem openGate_tdiv (s : State) : (openGate s).tdiv = s.tdiv := by rw [openGate_eq]
@[simp] theorem openGate_period (s : State) : (openGate s).period = s.period := by rw [openGate_eq]
@[simp] theorem openGate_tstate (s : State) : (openGate s).tstate = s.tstate := by rw [openGate_eq]
@[simp] theorem openGate_thresh (s : State) : (openGate s).thresh = s.thresh := by rw [openGate_eq]
@[simp] theorem openGate_tune (s : State) : (openGate s).tune = s.tune := by rw [openGate_eq]
@[simp] theorem openGate_istate (s : State) : (openGate s).istate = s.istate := by rw [openGate_eq]
@[simp] theorem openGate_indFlag (s : State) : (openGate s).indFlag = s.indFlag := by rw [openGate_eq]
@[simp] theorem openGate_indPattern (s : State) : (openGate s).indPattern = s.indPattern := by rw [openGate_eq]
@[simp] theorem openGate_line (s : State) : (openGate s).line = s.line := by rw [openGate_eq]
@[simp] theorem openGate_pc (s : State) : (openGate s).pc = s.pc := by rw [openGate_eq]
@[simp] theorem openGate_rsp (s : State) : (openGate s).rsp = s.rsp := by rw [openGate_eq]
@[simp] theorem openGate_cmds (s : State) : (openGate s).cmds = s.cmds := by rw [openGate_eq]
@[simp] theorem openGate_moves (s : State) : (openGate s).moves = s.moves := by rw [openGate_eq]
@[simp] theorem openGate_encCyc (s : State) : (openGate s).encCyc = s.encCyc := by rw [openGate_eq]
@[simp] theorem openGate_free (s : State) : (openGate s).free = s.free := by rw [openGate_eq]

end Sys2Proof.Machine
end

