-- ==== Sys2Proof/Laws/Meanings.lean ====
section
/-! SUPPORT. What each command's meaning answers, said once, and the evaluations of the two state machines by
cases. -/

namespace Sys2Proof.Machine

/-- What an accepted command can do, per command: the condition on its operands and the equation of its next
state. -/
def ExecNext (i : Instr) (s t : State) : Prop :=
    match i with
    | .nop => t = s.complete
    | .cbw ch idx val => colourInRange ch idx = true ∧
        t = ({ s with cb := s.cb.write (colourAddr ch.toNat idx.toNat) val }).complete
    | .cbr ch idx => colourInRange ch idx = true ∧
        ∃ v, s.cb.read (colourAddr ch.toNat idx.toNat) = some v ∧ t = s.respond (zextByte v)
    | .send base count => frameInRange base count = true ∧
        t = { s with encBase := base, encCnt := count, encPos := 0, ie := false, encPhase := .tx, encCyc := 0,
                     rsp := none }
    | .cfg imm => periodInRange imm = true ∧ t = ({ s with period := imm, count := imm }).complete
    | .start => t = ({ s with run := true, count := s.period, tdiv := 0 }).complete
    | .stop => t = ({ s with run := false }).complete
    | .tfrd => t = s.respond (zextFlag s.tf)
    | .tfclr => t = s.clearTF.complete
    | .tftac => t = s.clearTF.respond (zextFlag s.tf)
    | .tstep a b => t = (tuneEval config a b s).complete
    | .istep imm => t = (indEval config imm s).complete
    | .rdr reg => registerInRange reg = true ∧ ∃ v, regValue reg.toNat s = some v ∧ t = s.respond v

/-- What an accepted command can do. -/
theorem exec_next_cases {i : Instr} {s t : State} (h : exec i s = .next t) : ExecNext i s t := by
  cases i <;> simp only [ExecNext, exec, execNop, execCbw, execCbr, execSend, execCfg, execStart, execStop, execTfrd, execTfclr,
    execTftac, execTstep, execIstep, execRdr] at h ⊢
  case cbw => split at h <;> simp_all
  case cbr =>
    split at h
    · split at h <;> simp_all
    · cases h
  case send => split at h <;> simp_all
  case cfg => split at h <;> simp_all
  case rdr =>
    split at h
    · split at h <;> simp_all
    · cases h
  all_goals simpa using h.symm

/-- What one evaluation of the tuning machine can do, by state (R151 to R155). -/
theorem tuneEval_cases (c : Config) (a b : Bool) (s : State) :
    (s.tstate = .start ∧ tuneEval c a b s = tuneStart c s) ∨ (s.tstate = .hold ∧ tuneEval c a b s = tuneHold c a b s) ∨
    (s.tstate = .add ∧ tuneEval c a b s = tuneAdd c s) ∨ (s.tstate = .sub ∧ tuneEval c a b s = tuneSub c s) ∨
    (s.tstate = .wait ∧ tuneEval c a b s = tuneWait a b s) := by
  cases h : s.tstate <;> simp [tuneEval, h]

/-- An evaluation of the tuning machine writes `TSTATE`, `THRESH`, `TUNE` and the counter of draws, nothing else. -/
theorem tuneEval_eq (c : Config) (a b : Bool) (s : State) :
    tuneEval c a b s = { s with
      tstate := (tuneEval c a b s).tstate, thresh := (tuneEval c a b s).thresh, tune := (tuneEval c a b s).tune,
      free := (tuneEval c a b s).free } := by
  rcases tuneEval_cases c a b s with ⟨_, h⟩ | ⟨_, h⟩ | ⟨_, h⟩ | ⟨_, h⟩ | ⟨_, h⟩ <;> rw [h] <;> rfl

/-- What one evaluation of the indicator machine does: `Start` goes to `Off`, the others compare (R166, R167). -/
theorem indEval_cases (c : Config) (sample : Half) (s : State) :
    (s.istate = .start ∧ indEval c sample s = s.indicate c false) ∨
    (s.istate ≠ .start ∧ indEval c sample s = s.indicate c (s.thresh.toNat ≤ sample.toNat)) := by
  cases h : s.istate <;> simp [indEval, h]

/-- A number that fits is narrowed to itself. -/
theorem narrow_of_fits {w n : Nat} {free : BitVec w} (h : n < 2 ^ w) : narrow w (some n) free = BitVec.ofNat w n := by
  simp [narrow, fitsIn, h]

/-- A number that fits is narrowed to a register that holds it. -/
theorem narrow_toNat {w n : Nat} {free : BitVec w} (h : n < 2 ^ w) : (narrow w (some n) free).toNat = n := by
  rw [narrow_of_fits h, BitVec.toNat_ofNat, Nat.mod_eq_of_lt h]

/-- R38: every register number a command accepts has a value. -/
theorem regValue_isSome {reg : Byte} (h : registerInRange reg = true) (s : State) : (regValue reg.toNat s).isSome := by
  have : reg.toNat ≤ 7 := by simpa [registerInRange] using h
  interval_cases hr : reg.toNat <;> rfl

/-- What a command can be refused for, per reason: the situation and `pc` (R84, R111, R130, R201). -/
def ExecRefused (i : Instr) (s : State) (r : Refusal) : Prop :=
  match r with
  | .outOfRange pc => pc = s.pc ∧ i.wellFormed = false ∧ ∀ p, i ≠ .cfg p
  | .periodZero pc => pc = s.pc ∧ i = .cfg 0
  | .unwrittenColourByte pc => pc = s.pc ∧
      ∃ ch idx, i = .cbr ch idx ∧ s.cb.read (colourAddr ch.toNat idx.toNat) = none
  | _ => False

/-- What a command can be refused for. -/
theorem exec_refused_cases {i : Instr} {s : State} {r : Refusal} (h : exec i s = .refused r) : ExecRefused i s r := by
  cases i <;> simp only [exec, execNop, execCbw, execCbr, execSend, execCfg, execStart, execStop, execTfrd, execTfclr,
    execTftac, execTstep, execIstep, execRdr] at h
  case cbw => split at h <;> cases h; simp_all [ExecRefused, Instr.wellFormed]
  case cbr ch idx =>
    split at h
    · split at h <;> cases h
      exact ⟨rfl, ch, idx, rfl, by assumption⟩
    · cases h; simp_all [ExecRefused, Instr.wellFormed]
  case send => split at h <;> cases h; simp_all [ExecRefused, Instr.wellFormed]
  case cfg imm =>
    split at h <;> cases h
    rename_i hp
    have h0 : imm = 0 := BitVec.eq_of_toNat_eq (by simpa [periodInRange] using hp)
    exact ⟨rfl, by rw [h0]⟩
  case rdr reg =>
    split at h
    · obtain ⟨v, hv⟩ := Option.isSome_iff_exists.mp (regValue_isSome (by assumption) s)
      rw [hv] at h
      cases h
    · cases h; simp_all [ExecRefused, Instr.wellFormed]
  all_goals cases h

end Sys2Proof.Machine
end

