-- ==== Sys2Proof/Laws/Step.lean ====
section
/-! SUPPORT. What one step can do, said once: the step is the next move's, and each move's next states by cases. -/

namespace Sys2Proof.Machine

/-- With no move listed the block moves. -/
theorem step_of_no_moves {s : State} (h : s.moves = []) : step s = blockStep s := by
  simp [step, nextMove, h, takeMove]

/-- The first listed move is taken. -/
theorem step_of_move {s : State} {m : Move} {ms : List Move} (h : s.moves = m :: ms) :
    step s = takeMove m { s with moves := ms } := by
  simp [step, nextMove, h]

/-- A block move while no SEND is in progress accepts the next command. -/
theorem blockStep_idle {s : State} (h : s.encPhase = .idle) : blockStep s = acceptCommand s := by
  simp [blockStep, h]

/-- A block move while a SEND is in progress is the encoder's. -/
theorem blockStep_busy {s : State} (h : s.encPhase ≠ .idle) : blockStep s = encoderStep s := by
  cases hp : s.encPhase <;> simp_all [blockStep]

/-- What accepting a command can do: nothing is presented, or the word is decoded and the command runs. -/
theorem acceptCommand_cases {s t : State} (h : acceptCommand s = .next t) :
    (s.cmds = [] ∧ t = s.silent) ∨
    ∃ w ws i, s.cmds = w :: ws ∧ decode w = .command i ∧ exec i { s with cmds := ws } = .next t := by
  unfold acceptCommand at h
  cases hc : s.cmds with
  | nil => simp [hc] at h; exact .inl ⟨rfl, h.symm⟩
  | cons w ws =>
    simp only [hc] at h
    cases hd : decode w with
    | reservedWord => simp [hd] at h
    | command i => simp only [hd] at h; exact .inr ⟨w, ws, i, rfl, hd, h⟩

/-- What the encoder's step can do (R114 to R116). -/
theorem encoderStep_cases {s t : State} (h : encoderStep s = .next t) :
    (s.encPhase = .idle ∧ t = s.silent) ∨
    (s.encPhase = .tx ∧ s.encPos.toNat < 24 * s.encCnt.toNat ∧
      ∃ b, frameBit s.cb s.encBase.toNat s.encPos.toNat = some b ∧
        t = ({ s with encPos := s.encPos + 1 }.emit (.pulse b)).silent) ∨
    (s.encPhase = .tx ∧ s.encPos.toNat = 24 * s.encCnt.toNat ∧ t = encEnd s) ∨
    (s.encPhase = .tx ∧ 24 * s.encCnt.toNat < s.encPos.toNat ∧ t = s.silent) ∨
    (s.encPhase = .quiet ∧ t = encQuiet s) := by
  unfold encoderStep at h
  cases hp : s.encPhase with
  | idle => simp [hp] at h; exact .inl ⟨rfl, h.symm⟩
  | quiet => simp [hp] at h; exact .inr (.inr (.inr (.inr ⟨rfl, h.symm⟩)))
  | tx =>
    simp only [hp] at h
    split at h
    · rename_i hlt
      unfold encBit at h
      cases hb : frameBit s.cb s.encBase.toNat s.encPos.toNat with
      | none => simp [hb] at h
      | some b => simp only [hb, Host.Outcome.next.injEq] at h; exact .inr (.inl ⟨rfl, hlt, b, rfl, by rw [← h, ← hp]⟩)
    · split at h
      · rename_i _ he; simp at h; exact .inr (.inr (.inl ⟨rfl, he, h.symm⟩))
      · rename_i h1 h2; simp at h; exact .inr (.inr (.inr (.inl ⟨rfl, by omega, h.symm⟩)))

/-- What a step can do: which move was taken, on the state with that move used up. -/
theorem step_cases {s t : State} (h : step s = .next t) :
    ∃ m u, u = { s with moves := s.moves.tail } ∧
      (m = s.moves.head?.getD .block) ∧ takeMove m u = .next t := by
  cases hm : s.moves with
  | nil =>
    refine ⟨.block, s, ?_, rfl, by simpa [step, nextMove, hm] using h⟩
    rw [List.tail_nil, ← hm]
  | cons m ms => exact ⟨m, _, rfl, rfl, by simpa [step, nextMove, hm] using h⟩

/-- What a move can do: a command, an encoder step, a tick or a reset. -/
theorem takeMove_cases {m : Move} {s t : State} (h : takeMove m s = .next t) :
    (m = .block ∧ s.encPhase = .idle ∧ acceptCommand s = .next t) ∨
    (m = .block ∧ s.encPhase ≠ .idle ∧ encoderStep s = .next t) ∨
    (m = .tick ∧ t = tickStep s) ∨ (m = .rst ∧ t = resetBlock s) := by
  cases m with
  | block =>
    by_cases hp : s.encPhase = .idle
    · exact .inl ⟨rfl, hp, by simpa [takeMove, blockStep_idle hp] using h⟩
    · exact .inr (.inl ⟨rfl, hp, by simpa [takeMove, blockStep_busy hp] using h⟩)
  | tick => exact .inr (.inr (.inl ⟨rfl, by simpa [takeMove] using h.symm⟩))
  | rst => exact .inr (.inr (.inr ⟨rfl, by simpa [takeMove] using h.symm⟩))

/-- Runs compose: one step, then the rest. -/
theorem run_succ (k : Nat) {s t : State} (h : step s = .next t) :
    Host.Core.run core (k + 1) s = Host.Core.run core k t := by
  have hs : core.step s = .next t := h
  simp only [Host.Core.run, hs]

/-- An induction packaged: what holds at the start and is kept by every step holds of every reached state. -/
theorem Reaches.induct {P : State → Prop} {s t : State} (hr : Reaches s t) (h0 : P s)
    (hs : ∀ u v, P u → step u = .next v → P v) : P t := by
  induction hr with
  | here => exact h0
  | next _ hstep ih => exact hs _ _ ih hstep

end Sys2Proof.Machine
end

