-- ==== Sys2Proof/Laws/Cycle.lean ====
section
/-! SUPPORT. What one clock cycle is, by the encoder's phase, and what its parts leave alone. -/

namespace Sys2Proof.Machine

/-- R230: a cycle with `rst = 1` is the reset. -/
theorem cycle_rst {p : Profile} {inp : CycleIn} {s : State} (h : inp.rst = true) :
    cycle p inp s = .next (resetBlock s) := by
  simp [cycle, h]

/-- A cycle in which no SEND is in progress. -/
theorem cycle_idle {p : Profile} {inp : CycleIn} {s : State} (hr : inp.rst = false) (hp : s.encPhase = .idle) :
    cycle p inp s = cycleIdle (tickDue p s) inp (countDivider p s).silent := by
  unfold cycle
  rw [if_neg (by simp [hr])]
  dsimp only
  split <;> simp_all

/-- A cycle of a transmission. -/
theorem cycle_tx {p : Profile} {inp : CycleIn} {s : State} (hr : inp.rst = false) (hp : s.encPhase = .tx) :
    cycle p inp s = cycleTx p (tickDue p s) (countDivider p s).silent := by
  unfold cycle
  rw [if_neg (by simp [hr])]
  dsimp only
  split <;> simp_all

/-- A cycle of the quiet period. -/
theorem cycle_quiet {p : Profile} {inp : CycleIn} {s : State} (hr : inp.rst = false) (hp : s.encPhase = .quiet) :
    cycle p inp s = .next (cycleQuiet p (tickDue p s) (countDivider p s).silent) := by
  unfold cycle
  rw [if_neg (by simp [hr])]
  dsimp only
  split <;> simp_all

/-- R27: the divider writes `TDIV` and nothing else. -/
theorem countDivider_eq (p : Profile) (s : State) :
    countDivider p s = { s with tdiv := (countDivider p s).tdiv } := by
  unfold countDivider
  split <;> rfl

/-- R136: in the cycle of a tick the divider wraps. -/
theorem countDivider_of_due {p : Profile} {s : State} (h : tickDue p s = true) :
    countDivider p s = { s with tdiv := 0 } := by
  simp only [tickDue, Bool.and_eq_true, decide_eq_true_eq] at h
  simp [countDivider, h]

/-- R27: the divider stays below `TICK_CYC`. -/
theorem countDivider_lt {p : Profile} {s : State} (hp : 0 < p.tickCyc) (h : s.tdiv < p.tickCyc) :
    (countDivider p s).tdiv < p.tickCyc := by
  unfold countDivider
  split
  · dsimp only
    split <;> omega
  · exact h

/-- R27: a number below `TICK_CYC` fits the divider's width. -/
theorem Profile.fits_tdivBits {p : Profile} {n : Nat} (h : n < p.tickCyc) : n < 2 ^ p.tdivBits :=
  lt_of_lt_of_le h (Nat.le_pow_clog (by decide) _)

@[simp] theorem tickWhen_false (s : State) : tickWhen false s = s := rfl
@[simp] theorem tickWhen_true (s : State) : tickWhen true s = tick s := rfl

@[simp] theorem tickWhen_tdiv (due : Bool) (s : State) : (tickWhen due s).tdiv = s.tdiv := by
  cases due <;> simp

@[simp] theorem tickWhen_encPhase (due : Bool) (s : State) : (tickWhen due s).encPhase = s.encPhase := by
  cases due <;> simp

/-- R115: the end of a transmission on a clock edge: it comes, or it is not due. -/
theorem endTransmission_cases (s : State) :
    (s.encPhase = .tx ∧ s.encPos.toNat = 24 * s.encCnt.toNat ∧ endTransmission s = { encEnd s with encCyc := 0 }) ∨
    (¬(s.encPhase = .tx ∧ s.encPos.toNat = 24 * s.encCnt.toNat) ∧ endTransmission s = s) := by
  by_cases h : s.encPhase = .tx ∧ s.encPos.toNat = 24 * s.encCnt.toNat
  · exact .inl ⟨h.1, h.2, if_pos h⟩
  · exact .inr ⟨h, if_neg h⟩

@[simp] theorem endTransmission_tdiv (s : State) : (endTransmission s).tdiv = s.tdiv := by
  rcases endTransmission_cases s with ⟨_, _, h⟩ | ⟨_, h⟩ <;> rw [h]
  simp [encEnd]

end Sys2Proof.Machine
end

