-- ==== Sys2Proof/Laws/Decode.lean ====
section
/-! SUPPORT. Lemmas about the decoder: no two rows of the opcode map fit one word, a row that fits is the one the
decoder takes, and each format's fields read back what was put there. -/

namespace Sys2Proof.Laws

/-- R83, as an equation. -/
theorem fits_of_bits {r : OpRow} {w : Word} (h : w &&& r.mask = r.pattern) : r.fits w = true := by
  simpa [OpRow.fits] using h

/-- Two rows that both fit a word agree on the bits both masks cover. -/
theorem fits_both_agree {r q : OpRow} {w : Word} (hr : r.fits w = true) (hq : q.fits w = true) :
    r.pattern &&& q.mask = q.pattern &&& r.mask := by
  have h1 : w &&& r.mask = r.pattern := by simpa [OpRow.fits] using hr
  have h2 : w &&& q.mask = q.pattern := by simpa [OpRow.fits] using hq
  rw [← h1, ← h2, BitVec.and_assoc, BitVec.and_assoc, BitVec.and_comm r.mask]

/-- Different rows differ on the bits both masks cover (R83: the opcodes are distinct and every mask covers them). -/
theorem rows_conflict : ∀ r ∈ opcodeMap, ∀ q ∈ opcodeMap, r.pattern &&& q.mask = q.pattern &&& r.mask → r = q := by
  decide

/-- R85: at most one row fits a word. -/
theorem row_unique {r q : OpRow} {w : Word} (hr : r ∈ opcodeMap) (hq : q ∈ opcodeMap)
    (fr : r.fits w = true) (fq : q.fits w = true) : r = q :=
  rows_conflict r hr q hq (fits_both_agree fr fq)

/-- A row that fits is the row the decoder takes. -/
theorem decode_of_fits {r : OpRow} {w : Word} (hr : r ∈ opcodeMap) (fr : r.fits w = true) :
    decode w = .command (operandsOf r.op w) := by
  unfold decode
  cases h : opcodeMap.find? (fun r => r.fits w) with
  | none => exact absurd fr (by simpa using List.find?_eq_none.mp h r hr)
  | some q =>
    have hq := List.mem_of_find?_eq_some h
    have fq : q.fits w = true := by simpa using List.find?_some h
    rw [row_unique hr hq fr fq]

/-- A word is reserved when no row fits it. -/
theorem decode_of_no_fit {w : Word} (h : ∀ r ∈ opcodeMap, r.fits w = false) : decode w = .reservedWord := by
  have hn : opcodeMap.find? (fun r => r.fits w) = none := List.find?_eq_none.mpr (by simpa using h)
  simp [decode, hn]

/-- What a decoded command says of its word: some row fits it, and the command is that row's. -/
theorem decode_command {w : Word} {i : Instr} (h : decode w = .command i) :
    ∃ r ∈ opcodeMap, r.fits w = true ∧ operandsOf r.op w = i := by
  unfold decode at h
  cases hf : opcodeMap.find? (fun r => r.fits w) with
  | none => simp [hf] at h
  | some r =>
    refine ⟨r, List.mem_of_find?_eq_some hf, by simpa using List.find?_some hf, ?_⟩
    simpa [hf] using h

/-- Format C: the row's bits (CBW). -/
theorem formatC_cbw_bits (ch : BitVec 2) (idx val : Byte) :
    formatC 0x10 ch idx val &&& 0xFFFC0000#32 = 0x10000000#32 := by
  apply BitVec.eq_of_getLsbD_eq; intro i hi
  simp only [formatC, BitVec.getLsbD_and, BitVec.getLsbD_append]
  interval_cases i <;> simp

/-- Format C: the row's bits (CBR). -/
theorem formatC_cbr_bits (ch : BitVec 2) (idx : Byte) :
    formatC 0x11 ch idx 0 &&& 0xFFFC00FF#32 = 0x11000000#32 := by
  apply BitVec.eq_of_getLsbD_eq; intro i hi
  simp only [formatC, BitVec.getLsbD_and, BitVec.getLsbD_append]
  interval_cases i <;> simp

/-- Format C: the channel reads back. -/
theorem formatC_ch (op : Byte) (ch : BitVec 2) (idx val : Byte) : operand (formatC op ch idx val) 16 2 = ch := by
  apply BitVec.eq_of_getLsbD_eq; intro i hi
  simp only [operand, formatC, BitVec.getLsbD_extractLsb', BitVec.getLsbD_append]
  interval_cases i <;> simp

/-- Format C: the index reads back. -/
theorem formatC_idx (op : Byte) (ch : BitVec 2) (idx val : Byte) : operand (formatC op ch idx val) 8 8 = idx := by
  apply BitVec.eq_of_getLsbD_eq; intro i hi
  simp only [operand, formatC, BitVec.getLsbD_extractLsb', BitVec.getLsbD_append]
  interval_cases i <;> simp

/-- Format C: the value reads back. -/
theorem formatC_val (op : Byte) (ch : BitVec 2) (idx val : Byte) : operand (formatC op ch idx val) 0 8 = val := by
  apply BitVec.eq_of_getLsbD_eq; intro i hi
  simp only [operand, formatC, BitVec.getLsbD_extractLsb', BitVec.getLsbD_append]
  interval_cases i <;> simp

/-- Format S: the row's bits. -/
theorem formatS_bits (base count : Byte) : formatS 0x20 base count &&& 0xFFFF0000#32 = 0x20000000#32 := by
  apply BitVec.eq_of_getLsbD_eq; intro i hi
  simp only [formatS, BitVec.getLsbD_and, BitVec.getLsbD_append]
  interval_cases i <;> simp

/-- Format S: the base reads back. -/
theorem formatS_base (op base count : Byte) : operand (formatS op base count) 8 8 = base := by
  apply BitVec.eq_of_getLsbD_eq; intro i hi
  simp only [operand, formatS, BitVec.getLsbD_extractLsb', BitVec.getLsbD_append]
  interval_cases i <;> simp

/-- Format S: the count reads back. -/
theorem formatS_count (op base count : Byte) : operand (formatS op base count) 0 8 = count := by
  apply BitVec.eq_of_getLsbD_eq; intro i hi
  simp only [operand, formatS, BitVec.getLsbD_extractLsb', BitVec.getLsbD_append]
  interval_cases i <;> simp

/-- Format P: the row's bits, for CFG and ISTEP. -/
theorem formatP_bits (imm : Half) :
    formatP 0x30 imm &&& 0xFFFF0000#32 = 0x30000000#32 ∧ formatP 0x50 imm &&& 0xFFFF0000#32 = 0x50000000#32 := by
  constructor <;> apply BitVec.eq_of_getLsbD_eq <;> intro i hi <;>
    simp only [formatP, BitVec.getLsbD_and, BitVec.getLsbD_append] <;> interval_cases i <;> simp

/-- Format P: the immediate reads back. -/
theorem formatP_imm (op : Byte) (imm : Half) : operand (formatP op imm) 0 16 = imm := by
  apply BitVec.eq_of_getLsbD_eq; intro i hi
  simp only [operand, formatP, BitVec.getLsbD_extractLsb', BitVec.getLsbD_append]
  interval_cases i <;> simp

/-- Format R: the row's bits. -/
theorem formatR_bits (reg : Byte) : formatR 0x60 reg &&& 0xFFFFFF00#32 = 0x60000000#32 := by
  apply BitVec.eq_of_getLsbD_eq; intro i hi
  simp only [formatR, BitVec.getLsbD_and, BitVec.getLsbD_append]
  interval_cases i <;> simp

/-- Format R: the register number reads back. -/
theorem formatR_reg (op reg : Byte) : operand (formatR op reg) 0 8 = reg := by
  apply BitVec.eq_of_getLsbD_eq; intro i hi
  simp only [operand, formatR, BitVec.getLsbD_extractLsb', BitVec.getLsbD_append]
  interval_cases i <;> simp

end Sys2Proof.Laws
end

