-- ==== Sys2Proof/Laws/Master.lean ====
section
/-! SUPPORT. What a move of the whole system does, said once, for the reference master and the block together. -/

namespace Sys2Proof.Machine

/-- A block move while the block is ready: the master issues its next command and the block runs it. -/
theorem System.step_issue {c : Config} {env : Collaborators} {m : Master} {s t : State} {i : Instr}
    (hp : s.encPhase = .idle) (hi : (m.issue c env).1 = i) (hd : decode (encode i) = .command i)
    (he : exec i { s with cmds := [] } = .next t) :
    System.step c env .block ⟨m, s⟩ = .next (System.hear (m.issue c env).2 t) := by
  have ht : takeMove .block { s with cmds := [encode i] } = .next t := by
    have hb := blockStep_idle (s := { s with cmds := [encode i] }) hp
    simp only [takeMove, hb, acceptCommand, hd]
    exact he
  unfold System.step
  have hr : s.cmdReady = true := by simp [State.cmdReady, hp]
  simp only [hr, and_self, if_true, hi, ht]
  rfl

/-- A block move while a SEND is in progress is the encoder's, and the master waits. -/
theorem System.step_busy {c : Config} {env : Collaborators} {m : Master} {s t : State} (hp : s.encPhase ≠ .idle)
    (h : encoderStep s = .next t) : System.step c env .block ⟨m, s⟩ = .next (System.hear m t) := by
  have hr : s.cmdReady = false := by simp [State.cmdReady, hp]
  unfold System.step
  simp only [hr, Bool.false_eq_true, and_false, if_false, takeMove, blockStep_busy hp, h]
  rfl

/-- A tick move leaves the master as it is. -/
theorem System.step_tick (c : Config) (env : Collaborators) (m : Master) (s : State) :
    System.step c env .tick ⟨m, s⟩ = .next (System.hear m (tickStep s)) := rfl

/-- A reset starts the master and the block again (log 11). -/
theorem System.step_rst (c : Config) (env : Collaborators) (m : Master) (s : State) :
    System.step c env .rst ⟨m, s⟩ = .next (System.initial m.wanted) := rfl

end Sys2Proof.Machine
end

