-- ==== Sys2Proof/Laws/Memory.lean ====
section
/-! SUPPORT. The laws of the colour buffer: a read after a write, the other addresses, and the canonical form kept by
every write into the colour space. -/

namespace Sys2Proof.Machine

@[simp] theorem Memory.read_nil (a : Nat) : Memory.read [] a = none := rfl

/-- A byte just written reads as what was written. -/
@[simp] theorem Memory.read_write_same (m : Memory) (a : Nat) (v : Byte) : (m.write a v).read a = some v := by
  induction m with
  | nil => simp [Memory.write, Memory.read]
  | cons c m ih =>
    obtain ⟨k, u⟩ := c
    simp only [Memory.write]
    split
    · simp [Memory.read]
    · split
      · simp [Memory.read]
      · simp [Memory.read, *]

/-- A write leaves every other address alone. -/
theorem Memory.read_write_other (m : Memory) {a b : Nat} (v : Byte) (h : b ≠ a) : (m.write a v).read b = m.read b := by
  induction m with
  | nil => simp [Memory.write, Memory.read, h, Memory.unlisted]
  | cons c m ih =>
    obtain ⟨k, u⟩ := c
    simp only [Memory.write]
    split
    · simp [Memory.read, h]
    · split
      · rename_i h1 h2; subst h2; simp [Memory.read, h]
      · simp [Memory.read, ih]

/-- Rising from further on is rising from nearer. -/
theorem Memory.risesFrom_mono {lo hi : Nat} {m : Memory} (h : lo ≤ hi) (hr : Memory.risesFrom hi m = true) :
    Memory.risesFrom lo m = true := by
  cases m with
  | nil => rfl
  | cons c m =>
    simp only [Memory.risesFrom, Bool.and_eq_true, decide_eq_true_eq] at hr ⊢
    exact ⟨by omega, hr.2⟩

/-- A write keeps the addresses strictly rising. -/
theorem Memory.risesFrom_write {lo : Nat} {m : Memory} {a : Nat} (v : Byte) (hlo : lo ≤ a)
    (hr : Memory.risesFrom lo m = true) : Memory.risesFrom lo (m.write a v) = true := by
  induction m generalizing lo with
  | nil => simp [Memory.write, Memory.risesFrom, hlo]
  | cons c m ih =>
    obtain ⟨k, u⟩ := c
    simp only [Memory.risesFrom, Bool.and_eq_true, decide_eq_true_eq] at hr
    simp only [Memory.write]
    split
    · simp only [Memory.risesFrom, Bool.and_eq_true, decide_eq_true_eq]
      exact ⟨hlo, by omega, hr.2⟩
    · split
      · rename_i _ h; subst h
        simpa [Memory.risesFrom, hlo] using hr.2
      · simp only [Memory.risesFrom, Bool.and_eq_true, decide_eq_true_eq]
        exact ⟨hr.1, ih (by omega) hr.2⟩

/-- A write's cells are the old ones and the new one. -/
theorem Memory.mem_write {m : Memory} {a : Nat} {v : Byte} {c : Host.Cell} (h : c ∈ m.write a v) :
    c = (a, v) ∨ c ∈ m := by
  induction m with
  | nil => simpa [Memory.write] using h
  | cons d m ih =>
    obtain ⟨k, u⟩ := d
    simp only [Memory.write] at h
    split at h
    · simpa using h
    · split at h
      · rcases List.mem_cons.mp h with h | h
        · exact .inl h
        · exact .inr (List.mem_cons_of_mem _ h)
      · rcases List.mem_cons.mp h with h | h
        · exact .inr (by simp [h])
        · rcases ih h with h | h
          · exact .inl h
          · exact .inr (List.mem_cons_of_mem _ h)

/-- Every write into the colour space keeps the canonical form. -/
theorem Memory.wf_write {m : Memory} {a : Nat} (v : Byte) (ha : a < 3 * config.nMax) (h : m.wf = true) :
    (m.write a v).wf = true := by
  simp only [Memory.wf, Bool.and_eq_true, List.all_eq_true, decide_eq_true_eq] at h ⊢
  refine ⟨Memory.risesFrom_write v (Nat.zero_le _) h.1, fun c hc => ?_⟩
  rcases Memory.mem_write hc with rfl | hc
  · exact ha
  · exact h.2 c hc

/-- An accepted channel and index address a byte of the colour space (R60, R61). -/
theorem colourAddr_lt {ch : BitVec 2} {idx : Byte} (h : colourInRange ch idx = true) :
    colourAddr ch.toNat idx.toNat < 3 * config.nMax := by
  simp only [colourInRange, Bool.and_eq_true, decide_eq_true_eq] at h
  unfold colourAddr; omega

/-- Different bytes of the buffer have different addresses (R61): channels below 3. -/
theorem colourAddr_inj {c i d j : Nat} (hc : c < 3) (hd : d < 3) (h : colourAddr c i = colourAddr d j) :
    c = d ∧ i = j := by
  unfold colourAddr at h; omega

end Sys2Proof.Machine
end

