-- ==== Sys2Proof/Laws/Operands.lean ====
section
/-! SUPPORT. The operand checks as numbers, and the wire positions of R89 colour by colour. -/

namespace Sys2Proof.Machine

theorem colourInRange_iff {ch : BitVec 2} {idx : Byte} :
    colourInRange ch idx = true ↔ ch.toNat < 3 ∧ idx.toNat < 60 := by
  rw [colourInRange, Bool.and_eq_true, decide_eq_true_eq, decide_eq_true_eq, config_nMax]

theorem frameInRange_iff {base count : Byte} : frameInRange base count = true ↔ base.toNat + count.toNat ≤ 60 := by
  rw [frameInRange, decide_eq_true_eq, config_nMax]

theorem periodInRange_iff {imm : Half} : periodInRange imm = true ↔ 1 ≤ imm.toNat := by
  simp only [periodInRange, ne_eq, decide_not, Bool.not_eq_true', decide_eq_false_iff_not]
  omega

theorem registerInRange_iff {reg : Byte} : registerInRange reg = true ↔ reg.toNat ≤ 7 := by
  simp [registerInRange]

/-- R89: pulse `24 * i + 8 * c + j` of a frame reads channel `c` of colour `base + i`, bit `7 - j`. -/
theorem pulse_position {base i c j : Nat} (hc : c < 3) (hj : j < 8) :
    pulseAddr base (24 * i + 8 * c + j) = 3 * (base + i) + c ∧ pulseBit (24 * i + 8 * c + j) = 7 - j := by
  unfold pulseAddr colourAddr pulseBit
  have h1 : (24 * i + 8 * c + j) / 24 = i := by omega
  have h2 : (24 * i + 8 * c + j) % 24 / 8 = c := by omega
  have h3 : (24 * i + 8 * c + j) % 8 = j := by omega
  rw [h1, h2, h3]
  exact ⟨rfl, rfl⟩

end Sys2Proof.Machine
end

