-- ==== Sys2Proof/Laws/PerInstr.lean ====
section
/-! SUPPORT. The per-instruction family RoundTrip: decoding the word of a command gives the command back, one lemma
per constructor of Instr, for every value of its operands. -/

namespace Sys2Proof.Laws.RoundTrip

/-- Decoding the command's word gives the command back. -/
def Statement (i : Instr) : Prop := decode (encode i) = .command i

theorem nop : Statement .nop := by unfold Statement; decide

theorem cbw (ch : BitVec 2) (idx val : Byte) : Statement (.cbw ch idx val) := by
  have h := decode_of_fits (r := ⟨.cbw, 0x10000000, 0xFFFC0000⟩) (w := formatC 0x10 ch idx val) (by decide)
    (fits_of_bits (formatC_cbw_bits ch idx val))
  simpa [Statement, encode, operandsOf, formatC_ch, formatC_idx, formatC_val] using h

theorem cbr (ch : BitVec 2) (idx : Byte) : Statement (.cbr ch idx) := by
  have h := decode_of_fits (r := ⟨.cbr, 0x11000000, 0xFFFC00FF⟩) (w := formatC 0x11 ch idx 0) (by decide)
    (fits_of_bits (formatC_cbr_bits ch idx))
  simpa only [Statement, encode, operandsOf, formatC_ch, formatC_idx] using h

theorem send (base count : Byte) : Statement (.send base count) := by
  have h := decode_of_fits (r := ⟨.send, 0x20000000, 0xFFFF0000⟩) (w := formatS 0x20 base count) (by decide)
    (fits_of_bits (formatS_bits base count))
  simpa [Statement, encode, operandsOf, formatS_base, formatS_count] using h

theorem cfg (imm : Half) : Statement (.cfg imm) := by
  have h := decode_of_fits (r := ⟨.cfg, 0x30000000, 0xFFFF0000⟩) (w := formatP 0x30 imm) (by decide)
    (fits_of_bits (formatP_bits imm).1)
  simpa [Statement, encode, operandsOf, formatP_imm] using h

theorem start : Statement .start := by unfold Statement; decide

theorem stop : Statement .stop := by unfold Statement; decide

theorem tfrd : Statement .tfrd := by unfold Statement; decide

theorem tfclr : Statement .tfclr := by unfold Statement; decide

theorem tftac : Statement .tftac := by unfold Statement; decide

theorem tstep (a b : Bool) : Statement (.tstep a b) := by
  unfold Statement; cases a <;> cases b <;> decide

theorem istep (imm : Half) : Statement (.istep imm) := by
  have h := decode_of_fits (r := ⟨.istep, 0x50000000, 0xFFFF0000⟩) (w := formatP 0x50 imm) (by decide)
    (fits_of_bits (formatP_bits imm).2)
  simpa [Statement, encode, operandsOf, formatP_imm] using h

theorem rdr (reg : Byte) : Statement (.rdr reg) := by
  have h := decode_of_fits (r := ⟨.rdr, 0x60000000, 0xFFFFFF00⟩) (w := formatR 0x60 reg) (by decide)
    (fits_of_bits (formatR_bits reg))
  simpa [Statement, encode, operandsOf, formatR_reg] using h

end Sys2Proof.Laws.RoundTrip
end

