-- ==== Sys2Proof/Tests/Slice0.lean ====
section
/-! SUPPORT. The model's own tests and the witnesses of the statements' hypotheses. Every expected value is taken from
spec/95_test_vectors.md or worked out by hand from the rule the comment names, never from a run of the model. -/

namespace Sys2Proof.Tests

open Sys2Proof.Machine Sys2Proof.Claims

/-- The next state, where there is one. -/
def next (o : Host.Outcome State Fault Refusal) : Option State :=
  match o with
  | .next t => some t
  | .fault _ => none
  | .refused _ => none

/-- The refusal, where there is one. -/
def refusal (o : Host.Outcome State Fault Refusal) : Option Refusal :=
  match o with
  | .next _ => none
  | .fault _ => none
  | .refused r => some r

/-- The response of a next state, as a number. -/
def answer (o : Host.Outcome State Fault Refusal) : Option Nat :=
  ((next o).bind State.rsp).map BitVec.toNat

/-- Colour 0 is (0x80, 0x01, 0x55), as colour 5 of vector E10. -/
def oneColour : Memory := [(0, 0x80), (1, 0x01), (2, 0x55)]

/-- A transmission of one written colour, `pos` pulses gone by. -/
def sending (pos : BitVec 13) : State :=
  { State.reset with cb := oneColour, encPhase := .tx, encCnt := 1, encPos := pos, ie := false, run := true }

/-- What the collaborators answer: A asserted, a sample of 450, a constant gradient. -/
def someEnv : Collaborators := ⟨true, false, 450, fun _ _ => ⟨1, 2, 3⟩⟩

/-- A small well-formed profile. -/
def small : Profile := ⟨8, 1, 2, 3, 2, 4⟩

/-! ## Decoding: words written out bit by bit from R81 to R83 (spec/95_test_vectors.md 2.1) -/

-- opcode 0000_0000, all else zero
theorem test_decode_nop : decode 0b00000000_000000_00_00000000_00000000#32 = .command .nop := by decide
-- opcode 0001_0000, zeros, ch = 10 (blue), idx = 0, val = 30
theorem test_decode_cbw : decode 0b00010000_000000_10_00000000_00011110#32 = .command (.cbw 2 0 30) := by decide
-- opcode 0001_0001, zeros, ch = 01 (green), idx = 0, zeros
theorem test_decode_cbr : decode 0b00010001_000000_01_00000000_00000000#32 = .command (.cbr 1 0) := by decide
-- opcode 0010_0000, zeros, base = 59, count = 1
theorem test_decode_send : decode 0b00100000_00000000_00111011_00000001#32 = .command (.send 59 1) := by decide
-- opcode 0011_0000, zeros, imm = 65535
theorem test_decode_cfg : decode 0b00110000_00000000_11111111_11111111#32 = .command (.cfg 65535) := by decide
theorem test_decode_start : decode 0b00110001_000000000000000000000000#32 = .command .start := by decide
theorem test_decode_stop : decode 0b00110010_000000000000000000000000#32 = .command .stop := by decide
theorem test_decode_tfrd : decode 0b00110011_000000000000000000000000#32 = .command .tfrd := by decide
theorem test_decode_tfclr : decode 0b00110100_000000000000000000000000#32 = .command .tfclr := by decide
theorem test_decode_tftac : decode 0b00110101_000000000000000000000000#32 = .command .tftac := by decide
-- opcode 0100_0000, zeros, a = 1 in bit 1, b = 0 in bit 0
theorem test_decode_tstep : decode 0b01000000_0000000000000000000000_1_0#32 = .command (.tstep true false) := by decide
-- opcode 0101_0000, zeros, imm = 450
theorem test_decode_istep : decode 0b01010000_00000000_00000001_11000010#32 = .command (.istep 450) := by decide
-- opcode 0110_0000, zeros, reg = 7
theorem test_decode_rdr : decode 0b01100000_0000000000000000_00000111#32 = .command (.rdr 7) := by decide
-- must-be-zero bits set, and opcodes no row has (R84)
theorem test_decode_reserved :
    decode 0x00000001 = .reservedWord ∧ decode 0x10040000 = .reservedWord ∧ decode 0x11010001 = .reservedWord ∧
    decode 0x21000000 = .reservedWord ∧ decode 0x30010000 = .reservedWord ∧ decode 0x31000001 = .reservedWord ∧
    decode 0x40000004 = .reservedWord ∧ decode 0xFFFFFFFF = .reservedWord := by decide
-- the table gives every row 32 bits
theorem test_decode_table_word :
    decodeTableWord 32 0x20003B01 = some (.send 59 1) ∧ decodeTableWord 32 0x21000000 = none := by decide
-- decoding does not look at the values R84 refuses: `ch = 3` and `reg = 8` decode
theorem test_decode_out_of_range :
    decode 0x10030000 = .command (.cbw 3 0 0) ∧ decode 0x60000008 = .command (.rdr 8) := by decide

/-! ## The smoke test of WellFormed: one ill-formed term for each check (R84) -/

theorem smoke_cbw_channel : (Instr.cbw 3 0 0).wellFormed = false := by decide
theorem smoke_cbw_index : (Instr.cbw 0 60 0).wellFormed = false := by decide
theorem smoke_cbr_channel : (Instr.cbr 3 0).wellFormed = false := by decide
theorem smoke_cbr_index : (Instr.cbr 0 60).wellFormed = false := by decide
theorem smoke_send : (Instr.send 59 2).wellFormed = false := by decide
theorem smoke_cfg : (Instr.cfg 0).wellFormed = false := by decide
theorem smoke_rdr : (Instr.rdr 8).wellFormed = false := by decide
theorem smoke_accepted :
    (Instr.cbw 2 59 255).wellFormed = true ∧ (Instr.send 60 0).wellFormed = true ∧
    (Instr.cfg 1).wellFormed = true ∧ (Instr.rdr 7).wellFormed = true := by decide

/-! ## The commands, one step each -/

-- R180
theorem test_nop : (next (exec .nop State.reset)).map State.pc = some 1 := by decide
-- R61, R110: channel 1 of colour 2 is byte 7
theorem test_cbw : (next (exec (.cbw 1 2 20) State.reset)).map State.cb = some [(7, 20)] := by decide
-- E9
theorem test_cbw_refused : refusal (exec (.cbw 0 60 0) State.reset) = some (.outOfRange 0) := by decide
-- E1
theorem test_cbr : answer (exec (.cbr 1 0) { State.reset with cb := [(1, 20)] }) = some 0x0014 := by decide
-- E3
theorem test_cbr_unwritten :
    refusal (exec (.cbr 0 0) { State.reset with cb := [(1, 20)], pc := 1 }) = some (.unwrittenColourByte 1) := by
  decide
-- E5 is legal, E8 is not
theorem test_send_bounds :
    (next (exec (.send 60 0) State.reset)).map State.encPhase = some .tx ∧
    refusal (exec (.send 59 2) State.reset) = some (.outOfRange 0) := by decide
-- E10: the bytes 0x80 0x01 0x55, most significant bit first: pulses 0, 8, 15 and 17 are 1, 0, 1, 1
theorem test_send_bits :
    (next (blockStep (sending 0))).map State.line = some [.pulse true] ∧
    (next (blockStep (sending 8))).map State.line = some [.pulse false] ∧
    (next (blockStep (sending 15))).map State.line = some [.pulse true] ∧
    (next (blockStep (sending 17))).map State.line = some [.pulse true] := by decide
-- S12
theorem test_cfg_zero : refusal (exec (.cfg 0) State.reset) = some (.periodZero 0) := by decide
-- S9
theorem test_cfg : (next (exec (.cfg 5) { State.reset with period := 5, count := 2, run := true })).map State.count =
    some 5 := by decide
-- S10
theorem test_start : (next (exec .start { State.reset with period := 5, count := 2 })).map
    (fun t => (t.run, t.count)) = some (true, 5) := by decide
-- S8
theorem test_stop : (next (exec .stop { State.reset with tf := true, run := true })).map
    (fun t => (t.run, t.tf)) = some (false, true) := by decide
-- S7: TFRD leaves the flag
theorem test_tfrd : answer (exec .tfrd { State.reset with tf := true }) = some 1 ∧
    (next (exec .tfrd { State.reset with tf := true })).map State.tf = some true := by decide
-- S7: TFCLR answers nothing
theorem test_tfclr : (next (exec .tfclr { State.reset with tf := true })).map (fun t => (t.tf, t.rsp)) =
    some (false, none) := by decide
-- S6
theorem test_tftac : answer (exec .tftac { State.reset with tf := true }) = some 1 ∧
    (next (exec .tftac { State.reset with tf := true })).map State.tf = some false := by decide
-- Row 10 of the tuning trace: applied although already released
theorem test_tstep_sub :
    (next (exec (.tstep false false) { State.reset with tstate := .sub, thresh := 410, tune := 1 })).map
      (fun t => (t.tstate, t.thresh, t.tune)) = some (.wait, 400, 0) := by decide
-- The upper bound: an A gesture at (470, 7) leaves `Hold`
theorem test_tstep_bound :
    (next (exec (.tstep true false) { State.reset with tstate := .hold, thresh := 470, tune := 7 })).map
      (fun t => (t.tstate, t.thresh, t.tune)) = some (.hold, 470, 7) := by decide
-- I4: equal counts as reached, and I1: `Start` ignores the sample
theorem test_istep_edges :
    (next (exec (.istep 400) { State.reset with istate := .off })).map (fun t => (t.istate, t.indPattern)) =
      some (.on, 0) ∧
    (next (exec (.istep 500) State.reset)).map State.istate = some .off := by decide
-- I5
theorem test_istep_pattern :
    (next (exec (.istep 450) { State.reset with istate := .off, thresh := 430, tune := 3 })).map State.indPattern =
      some 0x07 := by decide
-- 2.6: the eight registers after reset
theorem test_rdr_reset : (List.range 8).map (fun r => answer (exec (.rdr (BitVec.ofNat 8 r)) State.reset)) =
    [some 0, some 1, some 1, some 0x0190, some 0, some 0, some 0, some 0] := by decide
-- 2.6: register 0 with TF = RUN = 1; I10: register 7 with the flag and pattern 0x03
theorem test_rdr_packed :
    answer (exec (.rdr 0) { State.reset with tf := true, run := true }) = some 3 ∧
    answer (exec (.rdr 7) { State.reset with indFlag := true, indPattern := 0x03 }) = some 0x0103 := by decide

/-! ## The encoder's other steps, the tick, memory, reset -/

-- S16: one handler run at the end of transmission
theorem test_end_of_transmission :
    (next (blockStep { sending 24 with period := 2, count := 2, tpend := true })).map
      (fun t => (t.encPhase, t.ie, t.tpend, t.count, t.tf)) = some (.quiet, true, false, 1, false) := by decide
-- R116
theorem test_quiet_step :
    (next (blockStep { State.reset with encPhase := .quiet })).map (fun t => (t.encPhase, t.line, t.pc)) =
      some (.idle, [.quiet], 1) := by decide
-- E11: colour 1 is unwritten
theorem test_unwritten_pulse :
    refusal (blockStep { sending 24 with encCnt := 2 }) = some (.unwrittenColourByte 0) := by decide
-- S1, S14, S15: a tick delivered, a tick held, a tick lost
theorem test_tick :
    (tickStep { State.reset with run := true }).tf = true ∧
    (tickStep (sending 3)).tpend = true ∧ (tickStep (sending 3)).tf = false ∧
    (tickStep { sending 3 with tpend := true }).tpend = true := by decide
-- S3, S4
theorem test_handler :
    (handler { State.reset with period := 3, count := 2 }).count = 1 ∧
    (handler { State.reset with period := 3, count := 1 }).count = 3 := by decide
-- R60: writes keep the addresses rising, at the ends of the space too
theorem test_memory_write :
    Memory.write (Memory.write (Memory.write [] 179 1) 0 2) 179 3 = [(0, 2), (179, 3)] ∧
    Memory.read [(0, 2), (179, 3)] 179 = some 3 ∧ Memory.read [(0, 2), (179, 3)] 5 = none := by decide
-- R230
theorem test_reset_mid_send :
    (next (step { sending 7 with moves := [.rst] })).map (fun t => (t.encPhase, t.ie, t.cb, t.run)) =
      some (.idle, true, [], false) := by decide

/-! ## The cycle level -/

-- R91: profile A from the formulas
theorem test_profile_a : Profile.ofClock config 8000000 = profileA := by decide
-- R88: the two slots of a small profile
theorem test_waveform :
    waveform small (.pulse false) = [true, false, false] ∧ waveform small (.pulse true) = [true, true, false] := by
  decide
-- R245 and 95_test_vectors.md P1: 1360 cycles
theorem test_send_cycles : sendCycles profileA 3 = 1360 := by decide
-- R27: 13 bits for 8000
theorem test_divider_width : profileA.tdivBits = 13 := by decide
-- S18: the tick of the cycle comes before its TFTAC
theorem test_tick_before_command :
    answer (cycle small ⟨false, true, 0x35000000⟩ { State.reset with run := true, tdiv := 3 }) = some 1 := by decide
-- R244: SEND of no colour is in its quiet period after the accepting cycle
theorem test_empty_send_cycle :
    (next (cycle small ⟨false, true, 0x20000000⟩ State.reset)).map (fun t => (t.encPhase, t.ie)) =
      some (.quiet, true) := by decide

-- R115, R244: the last slot is over at the start of the cycle: the gate opens and the first quiet cycle goes by
theorem test_end_at_cycle_start :
    (next (cycle small ⟨false, false, 0⟩ { sending 24 with tpend := true })).map
      (fun t => (t.encPhase, t.ie, t.tpend, t.tf)) = some (.quiet, true, false, true) ∧
    (next (cycle small ⟨false, false, 0⟩ (sending 24))).map (fun t => (t.encCyc, t.dout)) = some (1, false) := by
  decide

/-! ## The assembler and the reference master -/

-- R86, R87
theorem test_assemble :
    assemble ["CBW B, 0, 0x1E ; blue".toList, "RDR 7".toList] = some [0x1002001E, 0x60000007] ∧
    assemble ["CFG 65536".toList] = none := by decide
-- R232: START before the loop, CFG before START where a period is wanted; R191: the loop's first command is TSTEP
theorem test_master_boot :
    ((Master.initial none).issue config someEnv).1 = .start ∧
    ((Master.initial (some 5)).issue config someEnv).1 = .cfg 5 ∧
    ((Master.initial (some 5)).issue config someEnv).2.place = .bootStart ∧
    ((Master.initial none).issue config someEnv).2.place = .poll ∧
    ({ Master.initial none with place := .poll }.issue config someEnv).1 = .tstep true false := by decide
-- R194: the off mode starts with colour byte 0
theorem test_master_off :
    ({ Master.initial none with place := .heardIndicator, answer := some 0x0000 }.issue config someEnv).1 =
      .cbw 0 0 0 := by decide
-- R193: the animation's first frame asks for the flag, then paints the gradient
theorem test_master_animation :
    ({ Master.initial none with place := .heardIndicator, answer := some 0x0107 }.issue config someEnv).1 = .tftac ∧
    ({ Master.initial none with place := .heardTick 0, answer := some 1 }.issue config someEnv).1 = .cbw 0 0 1 := by
  decide

-- R193: 50 frames and no more; with BURST_FRAMES = 0 none
theorem test_master_burst :
    ({ Master.initial none with place := .await 49 }.issue config someEnv).1 = .tftac ∧
    ({ Master.initial none with place := .await 50 }.issue config someEnv).1 = .tstep true false ∧
    ({ Master.initial none with place := .heardIndicator, answer := some 0x0107 }.issue
      { burstFrames := 0 } someEnv).1 = .tstep true false := by decide

/-! ## Witnesses: for each statement with hypotheses, a state and operands that meet them all, each clause at the
boundary of its range -/

/-- The last colour of the buffer, index 59, is written. -/
def lastColour : Memory := [(177, 1), (178, 2), (179, 3)]

/-- A block ready for a command, ticks running, with one command word presented. -/
def ready (w : Word) : State := { State.reset with run := true, cmds := [w] }

theorem written_one : coloursWritten oneColour 0 1 := by
  intro i ch hi hc
  interval_cases i
  interval_cases ch <;> decide

theorem written_last : coloursWritten lastColour 59 1 := by
  intro i ch hi hc
  interval_cases i
  interval_cases ch <;> decide

theorem written_none (m : Memory) (base : Nat) : coloursWritten m base 0 := 
  fun _ _ hi _ => absurd hi (Nat.not_lt_zero _)

theorem witness_EncodeOfDecode : decode 0x5000FFFF = .command (.istep 65535) := by decide

theorem witness_DecoderFindsTheOneRow :
    (∃ r ∈ opcodeMap, (0x10030000 : Word) &&& r.mask = r.pattern) ∧
    ∀ r ∈ opcodeMap, (0x10040000 : Word) &&& r.mask ≠ r.pattern := by decide

theorem witness_StepTakesTheNextMove :
    State.reset.moves = [] ∧ { State.reset with moves := [.block] }.moves = .block :: [] ∧
    { State.reset with moves := [.tick] }.moves = .tick :: [] ∧
    { State.reset with moves := [.rst] }.moves = .rst :: [] ∧ (sending 0).encPhase ≠ .idle ∧
    State.reset.encPhase = .idle ∧ State.reset.cmds = [] := by decide

theorem witness_StepRunsTheDecodedCommand :
    (ready 0x60000007).encPhase = .idle ∧ (ready 0x60000007).cmds = 0x60000007 :: [] ∧
    decode 0x60000007 = .command (.rdr 7) ∧ (ready 0x60000007).moves = [] ∧
    { ready 0x60000007 with moves := [.block] }.moves = .block :: [] := by decide

theorem witness_FetchedWordRuns : decodeTableWord 32 0x2000003C = some (.send 0 60) := by decide

/-- One state for each reason, and for `unwritten_colour_byte` one for each of its two situations. -/
theorem witness_RefusalsNameReasonAndPc :
    step { ready 0x10040000 with pc := 7 } = .refused (.reservedWord 7) ∧
    step { ready 0x60000008 with pc := 7 } = .refused (.outOfRange 7) ∧
    step { ready 0x30000000 with pc := 7 } = .refused (.periodZero 7) ∧
    step { ready 0x11000000 with pc := 7 } = .refused (.unwrittenColourByte 7) ∧
    step { sending 0 with cb := [], pc := 7 } = .refused (.unwrittenColourByte 7) :=
  ⟨rfl, rfl, rfl, rfl, rfl⟩

theorem witness_ReservedWordIsRefused :
    (ready 0x10040000).encPhase = .idle ∧ (ready 0x10040000).cmds = 0x10040000 :: [] ∧
    decode 0x10040000 = .reservedWord ∧ (ready 0x10040000).moves.head?.getD .block = .block := by decide

theorem witness_MasterWaitsDuringSend :
    ∃ s t : State, s.encPhase ≠ .idle ∧ s.moves.head? ≠ some .rst ∧ step s = .next t ∧ s.tf = true :=
  ⟨{ sending 23 with tf := true }, _, by decide, by decide, rfl, rfl⟩

theorem witness_RdrAnswersTheRegister : 7 < (8 : Byte).toNat ∧ (7 : Byte).toNat ≤ 7 ∧ (0 : Byte).toNat ≤ 7 := by decide

theorem witness_ReadsHaveNoSideEffect :
    (∃ t, exec (.rdr 7) State.reset = .next t) ∧ (∃ t, exec (.cbr 2 59) { State.reset with cb := lastColour } = .next t) ∧
    ∃ t, exec .tfrd State.reset = .next t :=
  ⟨⟨_, rfl⟩, ⟨_, rfl⟩, ⟨_, rfl⟩⟩

theorem witness_CbwWritesOneByte :
    (3 : BitVec 2).toNat = 3 ∧ 60 ≤ (60 : Byte).toNat ∧ (2 : BitVec 2).toNat < 3 ∧ (59 : Byte).toNat < 60 ∧
    State.reset.cb.wf = true := by decide

theorem witness_CbrAnswersTheByte :
    (3 : BitVec 2).toNat = 3 ∧ 60 ≤ (60 : Byte).toNat ∧ (2 : BitVec 2).toNat < 3 ∧ (59 : Byte).toNat < 60 ∧
    Memory.read [] (3 * 59 + 2) = none ∧ lastColour.read (3 * (59 : Byte).toNat + (2 : BitVec 2).toNat) = some 3 := by
  decide

theorem witness_SendBegins :
    60 < (60 : Byte).toNat + (1 : Byte).toNat ∧ (60 : Byte).toNat + (0 : Byte).toNat ≤ 60 ∧
    (59 : Byte).toNat + (1 : Byte).toNat ≤ 60 := by decide

theorem witness_BitStepEmitsOnePulse :
    (sending 23).encPhase = .tx ∧ (sending 23).encPos.toNat < 24 * (sending 23).encCnt.toNat ∧
    (sending 23).cb.read (3 * (0 + 23 / 24) + 23 % 24 / 8) = some 0x55 ∧
    { sending 0 with cb := [] }.cb.read (3 * (0 + 0 / 24) + 0 % 24 / 8) = none := by decide

theorem witness_TransmissionEnds :
    (sending 24).encPhase = .tx ∧ (sending 24).encPos.toNat = 24 * (sending 24).encCnt.toNat ∧
    (sending 24).tpend = false ∧ { sending 24 with tpend := true }.tpend = true := by decide

theorem witness_QuietStepCompletesSend : { State.reset with encPhase := .quiet }.encPhase = .quiet := by decide

theorem witness_TransmissionHoldsTheHandler :
    ∃ s t : State, s.encPhase = .tx ∧ s.ie = false ∧ step s = .next t ∧ t.encPhase = .tx ∧ s.tpend = true :=
  ⟨{ sending 23 with tpend := true }, _, rfl, rfl, rfl, rfl, rfl⟩

/-- A SEND of the last colour with a tick before it, in it and after it; and a SEND of no colour at the buffer's end. -/
theorem witness_SendTransmitsTheFrame :
    (∃ s : State, s.encPhase = .idle ∧ s.cmds = encode (.send 59 1) :: [0x00000000] ∧
      (59 : Byte).toNat + (1 : Byte).toNat ≤ 60 ∧ coloursWritten s.cb (59 : Byte).toNat (1 : Byte).toNat ∧
      .rst ∉ s.moves ∧ s.moves.count .block = 24 * (1 : Byte).toNat + 3 ∧ s.moves.count .tick = 3) ∧
    ∃ s : State, s.encPhase = .idle ∧ s.cmds = encode (.send 60 0) :: [] ∧
      (60 : Byte).toNat + (0 : Byte).toNat ≤ 60 ∧ coloursWritten s.cb (60 : Byte).toNat (0 : Byte).toNat ∧
      .rst ∉ s.moves ∧ s.moves.count .block = 24 * (0 : Byte).toNat + 3 :=
  ⟨⟨{ State.reset with
      cb := lastColour, run := true, cmds := [encode (.send 59 1), 0x00000000]
      moves := .tick :: List.replicate 10 .block ++ .tick :: List.replicate 17 .block ++ [.tick] },
    by decide, by decide, by decide, written_last, by decide, by decide, by decide⟩,
   ⟨{ State.reset with cmds := [encode (.send 60 0)], moves := List.replicate 3 .block },
    by decide, by decide, by decide, written_none _ _, by decide, by decide⟩⟩

theorem witness_AllOffFrameIsDark :
    ∀ n : Byte, n = 0 ∨ n = 1 ∨ n = 60 → ∃ s : State, n.toNat ≤ 60 ∧ s.encPhase = .idle ∧
      s.cmds = ((Pseudo.allOff n).expand ++ (Pseudo.frame n).expand).map encode ∧ .rst ∉ s.moves ∧
      s.moves.count .block = 3 * n.toNat + 24 * n.toNat + 3 ∧ s.moves.count .tick = 2 := by
  intro n hn
  refine ⟨{ State.reset with
    run := true, cmds := ((Pseudo.allOff n).expand ++ (Pseudo.frame n).expand).map encode
    moves := .tick :: List.replicate (3 * n.toNat + 24 * n.toNat + 3) .block ++ [.tick] }, ?_, rfl, rfl, ?_, ?_, ?_⟩
  · rcases hn with rfl | rfl | rfl <;> decide
  · simp
  · simp
  · simp [List.count_replicate]

theorem witness_CfgSetsPeriodAndCount :
    (0 : Half).toNat = 0 ∧ 1 ≤ (1 : Half).toNat ∧ 1 ≤ (65535 : Half).toNat := by decide

theorem witness_StopDisablesTicks : State.reset.run = false := by decide

theorem witness_HandlerCountsDown :
    State.reset.count.toNat = 1 ∧ 2 ≤ { State.reset with count := 2 }.count.toNat ∧
    { State.reset with count := 0 }.count.toNat = 0 := by decide

theorem witness_TickDeliversOrPends :
    { State.reset with run := true }.run = true ∧ { State.reset with run := true }.ie = true ∧
    (sending 0).run = true ∧ (sending 0).ie = false ∧ State.reset.run = false := by decide

theorem witness_RaisesOncePerPeriod :
    1 ≤ State.reset.period.toNat ∧ State.reset.count = State.reset.period ∧
    1 ≤ { State.reset with period := 65535, count := 65535 }.period.toNat := by decide

/-- With two ticks in the transmission, and with none. -/
theorem witness_OneTickSurvivesTheWindow :
    ∀ ms ∈ [[.tick, .block, .tick, .block], [.block, .block]], ∃ s : State,
      s.encPhase = .tx ∧ s.ie = false ∧ s.tpend = false ∧ s.run = true ∧
      s.encPos.toNat + ms.count Move.block = 24 * s.encCnt.toNat ∧
      coloursWritten s.cb s.encBase.toNat s.encCnt.toNat ∧ .rst ∉ ms ∧ s.moves = ms ++ [.block] := by
  intro ms hms
  refine ⟨{ sending 22 with moves := ms ++ [.block] }, rfl, rfl, rfl, rfl, ?_, written_one, ?_, rfl⟩ <;>
    revert ms <;> decide

/-- For TuningStartInitialises, TuningStepsOnce and TuningWaitsForRelease. -/
theorem witness_Tuning :
    State.reset.tstate = .start ∧ { State.reset with tstate := .hold }.tstate = .hold ∧
    (∃ s : State, s.tstate = .add ∧ s.thresh.toNat < 470 ∧ s.tune.toNat < 7 ∧ s.thresh = 469) ∧
    (∃ s : State, s.tstate = .sub ∧ 400 < s.thresh.toNat ∧ 0 < s.tune.toNat ∧ s.thresh = 401) ∧
    { State.reset with tstate := .wait }.tstate = .wait :=
  ⟨rfl, rfl, ⟨{ State.reset with tstate := .add, thresh := 469, tune := 6 }, by decide⟩,
    ⟨{ State.reset with tstate := .sub, thresh := 401, tune := 1 }, by decide⟩, rfl⟩

/-- Each of the four results at the last value that fits and at the first that does not; they exclude each other in no
state, so one may fit where the other does not. -/
theorem witness_TuningAlwaysCompletes :
    (∃ s : State, s.tstate = .add ∧ s.thresh.toNat + 10 = 2 ^ 16 - 1 ∧ s.tune.toNat + 1 = 2 ^ 3) ∧
    (∃ s : State, s.tstate = .add ∧ s.thresh.toNat + 10 = 2 ^ 16 ∧ s.tune.toNat + 1 = 2 ^ 3 - 1) ∧
    (∃ s : State, s.tstate = .sub ∧ s.thresh = 10 ∧ s.tune = 0) ∧
    ∃ s : State, s.tstate = .sub ∧ s.thresh = 9 ∧ s.tune = 1 :=
  ⟨⟨{ State.reset with tstate := .add, thresh := 65525, tune := 7 }, by decide⟩,
    ⟨{ State.reset with tstate := .add, thresh := 65526, tune := 6 }, by decide⟩,
    ⟨{ State.reset with tstate := .sub, thresh := 10, tune := 0 }, by decide⟩,
    ⟨{ State.reset with tstate := .sub, thresh := 9, tune := 1 }, by decide⟩⟩

theorem witness_TuningHoldGates :
    ∃ s : State, s.tstate = .hold ∧ s.thresh.toNat < 470 ∧ 400 < s.thresh.toNat :=
  ⟨{ State.reset with tstate := .hold, thresh := 410, tune := 1 }, by decide⟩

theorem witness_TuningStaysInBounds :
    config.wf = true ∧ State.reset.tstate = .start ∧
    { State.reset with tstate := .add, thresh := 460, tune := 6 }.TuningInv config := by decide

theorem witness_OneStepPerGesture :
    (∃ s : State, s.tstate = .hold ∧ s.TuningInv config ∧ (∀ l ∈ [(true, true), (false, true)], l ≠ (false, false)) ∧
      s.thresh.toNat < 470 ∧ s.thresh = 460) ∧
    ∃ s : State, s.tstate = .hold ∧ s.TuningInv config ∧ 400 < s.thresh.toNat ∧ s.thresh = 410 :=
  ⟨⟨{ State.reset with tstate := .hold, thresh := 460, tune := 6 }, by decide⟩,
    ⟨{ State.reset with tstate := .hold, thresh := 410, tune := 1 }, by decide⟩⟩

/-- For IndicatorStartIgnoresSample, IndicatorIsPure and IndicatorHasNoHysteresis. -/
theorem witness_Indicator :
    State.reset.istate = .start ∧ { State.reset with istate := .off }.istate ≠ .start ∧
    State.reset.thresh.toNat ≤ (400 : Half).toNat ∧ (399 : Half).toNat < State.reset.thresh.toNat ∧
    1 ≤ State.reset.thresh.toNat := by decide

theorem witness_CommandsWriteOnlyTheirOwn :
    ∃ t, exec (.cbw 2 59 255) { State.reset with cb := lastColour } = .next t := ⟨_, rfl⟩

/-- The flag rises in a tick step and at the end of a transmission, and falls in a TFTAC. -/
theorem witness_FlagAndLineHaveOneWriter :
    (∃ t, step { State.reset with run := true, moves := [.tick] } = .next t ∧ t.tf = true) ∧
    (∃ t, step { sending 24 with tpend := true } = .next t ∧ t.tf = true) ∧
    ∃ t, step { ready 0x35000000 with tf := true } = .next t ∧ t.tf = false :=
  ⟨⟨_, rfl, rfl⟩, ⟨_, rfl, rfl⟩, ⟨_, rfl, rfl⟩⟩

theorem witness_OperandsOutOfRangeAreRefused :
    (Instr.cbw 3 0 0).wellFormed = false ∧ (Instr.cbr 0 60).wellFormed = false ∧
    (Instr.send 255 255).wellFormed = false ∧ (Instr.cfg 0).wellFormed = false ∧
    (Instr.rdr 8).wellFormed = false := by decide

theorem witness_EveryCommandRuns :
    (Instr.cbr 2 59).wellFormed = true ∧ (lastColour.read (3 * (59 : Byte).toNat + (2 : BitVec 2).toNat)).isSome ∧
    (Instr.send 60 0).wellFormed = true ∧ (Instr.cfg 65535).wellFormed = true := by decide

theorem witness_ResetAtAnyMoment : { sending 7 with moves := [.rst, .tick] }.moves = .rst :: [.tick] := by decide

theorem witness_EveryStepKeepsInv : ∃ t, State.reset.Inv ∧ step State.reset = .next t :=
  ⟨_, ⟨by decide, by decide, by decide, by decide, by decide, by decide, by decide, by decide⟩, rfl⟩

theorem witness_SlotsDifferOnlyInHighTime : profileA.wf = true ∧ small.wf = true ∧ 9 < profileA.slotCyc := by decide

theorem witness_CyclesRefineEvents :
    (∃ t, cycle small ⟨false, true, 0x20000000⟩ { State.reset with run := true, tdiv := 3 } = .next t) ∧
    ∃ t, cycle small ⟨true, true, 0xFFFFFFFF⟩ (sending 3) = .next t := ⟨⟨_, rfl⟩, ⟨_, rfl⟩⟩

theorem witness_SendDrivesItsWaveform :
    ∃ (s : State) (ins : List CycleIn), small.wf = true ∧ s.encPhase = .idle ∧
      (0 : Byte).toNat + (1 : Byte).toNat ≤ 60 ∧ coloursWritten s.cb (0 : Byte).toNat (1 : Byte).toNat ∧
      (∀ inp ∈ ins, inp.rst = false) ∧ ins.length = 24 * (1 : Byte).toNat * small.slotCyc + small.quietCyc :=
  ⟨{ State.reset with cb := oneColour, run := true }, List.replicate 74 ⟨false, true, 0⟩, by decide, by decide,
    by decide, written_one, by decide, by decide⟩

theorem witness_TicksComeEveryTickCyc :
    ∃ (s : State) (ins : List CycleIn), small.wf = true ∧ s.encPhase = .idle ∧ s.ie = true ∧
      (∀ inp ∈ ins, inp.rst = false ∧ inp.cmdValid = false) ∧ ins.length = small.tickCyc ∧
      (∃ t, cycle small ⟨false, false, 0⟩ { s with run := true, tdiv := 3 } = .next t ∧ t.tdiv = 0) ∧ 3 < small.tickCyc :=
  ⟨State.reset, List.replicate 4 ⟨false, false, 0⟩, by decide, by decide, by decide, by decide, by decide, ⟨_, rfl, rfl⟩,
    by decide⟩

theorem witness_SameCycleOrder :
    (∃ s : State, small.wf = true ∧ tickDue small s = true ∧ s.encPhase = .idle ∧ s.ie = true ∧ s.tpend = false ∧
      s.count = 1 ∧ (60 : Byte).toNat + (0 : Byte).toNat ≤ 60 ∧ decode 0x60000007 = .command (.rdr 7) ∧
      ∀ base, Instr.rdr 7 ≠ .send base 0) ∧
    ∃ s : State, tickDue small s = true ∧ s.encPhase = .tx ∧ s.encPos.toNat + 1 = 24 * s.encCnt.toNat ∧
      s.encCyc + 1 = small.slotCyc ∧ coloursWritten s.cb s.encBase.toNat s.encCnt.toNat ∧ s.tpend = true :=
  ⟨⟨{ State.reset with run := true, tdiv := 3 }, by decide⟩,
    ⟨{ sending 23 with tdiv := 3, encCyc := 2, tpend := true }, by decide, by decide, by decide, by decide,
      written_one, by decide⟩⟩

/-- A tick time of exactly the transmission, and the divider at its last count: the tick falls in the first cycle. -/
theorem witness_ShortFramesLoseNoTick :
    ∃ (p : Profile) (s : State) (ins : List CycleIn),
      p.wf = true ∧ s.encPhase = .tx ∧ s.encPos = 0 ∧ s.encCyc = 0 ∧ s.ie = false ∧ s.tpend = false ∧ s.run = true ∧
      s.tdiv < p.tickCyc ∧ 1 ≤ s.encCnt.toNat ∧ 24 * s.encCnt.toNat * p.slotCyc ≤ p.tickCyc ∧
      coloursWritten s.cb s.encBase.toNat s.encCnt.toNat ∧ (∀ inp ∈ ins, inp.rst = false) ∧
      ins.length = 24 * s.encCnt.toNat * p.slotCyc :=
  ⟨{ small with tickCyc := 72 }, { sending 0 with tdiv := 71 }, List.replicate 72 ⟨false, false, 0⟩, by decide, by decide,
    by decide, by decide, by decide, by decide, by decide, by decide, by decide, by decide, written_one, by decide,
    by decide⟩

theorem witness_PatternLightsOnePositionPerLevel :
    0 < 8 ∧ 7 < 8 ∧ (7 : BitVec 3).toNat = 7 ∧
    ∃ t, exec (.istep 470) { State.reset with istate := .off, thresh := 470, tune := 7 } = .next t ∧ t.istate = .on :=
  ⟨by decide, by decide, by decide, _, rfl, rfl⟩

theorem witness_MasterPollsThenEvaluates :
    (65535 : Half) ≠ 0 ∧ ∀ raised, ∃ y : System,
      y.master.place = .poll ∧ y.block.encPhase = .idle ∧ y.block.tf = raised :=
  ⟨by decide, fun raised =>
    ⟨⟨{ Master.initial none with place := .poll }, { State.reset with tf := raised }⟩, rfl, rfl, rfl⟩⟩

end Sys2Proof.Tests
end

section
/-! PROOFS of the family `00_scope.md`: a step is the next move's (O6), and every clock cycle is at most three moves
of the event level (O53). -/

/-! ## What the event level sees

Every operation of the block is a function of the event level's view: it may be taken before or after forgetting the
divider, the cycle count, the level inside a slot and the ports. -/

namespace Sys2Proof.Machine

open Sys2Proof.Claims

theorem handler_eventView (s : State) : handler (eventView s) = eventView (handler s) := by
  rcases handler_cases s with ⟨h0, h⟩ | ⟨h0, h⟩ <;> rw [h]
  · exact if_pos h0
  · exact if_neg h0

theorem tick_eventView (s : State) : tick (eventView s) = eventView (tick s) := by
  rcases tick_cases s with ⟨hi, h⟩ | ⟨hi, hp, h⟩ | ⟨hi, hp, h⟩ <;> rw [h]
  · rw [← handler_eventView]
    exact if_pos hi
  · simp [tick, eventView, hi, hp]
  · simp [tick, eventView, hi, hp]

theorem openGate_eventView (s : State) : openGate (eventView s) = eventView (openGate s) := by
  rcases openGate_cases s with ⟨hp, h⟩ | ⟨hp, h⟩ <;> rw [h]
  · rw [← handler_eventView]
    exact if_pos hp
  · exact if_neg (by simp [eventView, hp])

theorem encEnd_eventView (s : State) : encEnd (eventView s) = eventView (encEnd s) := by
  rw [encEnd, openGate_eventView]
  rfl

theorem tuneEval_eventView (c : Config) (a b : Bool) (s : State) :
    tuneEval c a b (eventView s) = eventView (tuneEval c a b s) := by
  cases h : s.tstate <;> simp only [tuneEval, eventView, h] <;> rfl

theorem indEval_eventView (c : Config) (sample : Half) (s : State) :
    indEval c sample (eventView s) = eventView (indEval c sample s) := by
  cases h : s.istate <;> simp only [indEval, eventView, h] <;> rfl

theorem regValue_eventView (reg : Nat) (s : State) : regValue reg (eventView s) = regValue reg s := by
  unfold regValue
  split <;> rfl

/-- R230: what is seen of a reset depends only on what was seen before it. -/
theorem eventView_resetBlock (s : State) : eventView (resetBlock (eventView s)) = eventView (resetBlock s) := rfl

/-- What the event level sees of an outcome. -/
def seen : Host.Outcome State Fault Refusal → Host.Outcome State Fault Refusal
  | .next s => .next (eventView s)
  | .fault r => .fault r
  | .refused r => .refused r

/-- An operation that looks only at what the event level sees. -/
def ViewOnly (f : State → Host.Outcome State Fault Refusal) : Prop := ∀ s, seen (f (eventView s)) = seen (f s)

/-- A view-only operation carries over to every state that looks the same. -/
theorem ViewOnly.carry {f : State → Host.Outcome State Fault Refusal} (hf : ViewOnly f) {s t u : State}
    (h : f s = .next t) (hu : eventView u = eventView s) : ∃ v, f u = .next v ∧ eventView v = eventView t := by
  have hs : seen (f u) = .next (eventView t) := by rw [← hf u, hu, hf s, h, seen]
  cases hv : f u with
  | next v => exact ⟨v, rfl, by simpa [hv, seen] using hs⟩
  | fault r => simp [hv, seen] at hs
  | refused r => simp [hv, seen] at hs

/-- R9: no command looks at the divider, the cycle count, the level inside a slot or the ports. -/
theorem exec_viewOnly (i : Instr) : ViewOnly (exec i) := by
  intro s
  cases i with
  | nop => rfl
  | cbw ch idx val =>
    simp only [exec, execCbw]
    split <;> rfl
  | cbr ch idx =>
    have hcb : (eventView s).cb = s.cb := rfl
    simp only [exec, execCbr, hcb]
    split
    · split <;> rfl
    · rfl
  | send base count =>
    simp only [exec, execSend]
    split <;> rfl
  | cfg imm =>
    simp only [exec, execCfg]
    split <;> rfl
  | start => rfl
  | stop => rfl
  | tfrd => rfl
  | tfclr => rfl
  | tftac => rfl
  | tstep a b =>
    simp only [exec, execTstep, tuneEval_eventView]
    rfl
  | istep imm =>
    simp only [exec, execIstep, indEval_eventView]
    rfl
  | rdr reg =>
    simp only [exec, execRdr, regValue_eventView]
    split
    · split <;> rfl
    · rfl

/-- R9: nor does the encoder. -/
theorem encoderStep_viewOnly : ViewOnly encoderStep := by
  intro s
  have hphase : (eventView s).encPhase = s.encPhase := rfl
  have hpos : (eventView s).encPos = s.encPos := rfl
  have hcnt : (eventView s).encCnt = s.encCnt := rfl
  simp only [encoderStep, hphase, hpos, hcnt, encEnd_eventView]
  split
  · rfl
  · split
    · have hbit : frameBit (eventView s).cb (eventView s).encBase.toNat (eventView s).encPos.toNat =
          frameBit s.cb s.encBase.toNat s.encPos.toNat := rfl
      simp only [encBit, hbit]
      split <;> rfl
    · split <;> rfl
  · rfl

/-- A command leaves the master's other words alone. -/
theorem exec_cmds {i : Instr} {s t : State} (h : exec i s = .next t) : t.cmds = s.cmds := by
  have hc := exec_next_cases h
  cases i with
  | cbr ch idx => obtain ⟨_, v, _, rfl⟩ := hc; rfl
  | rdr reg => obtain ⟨_, v, _, rfl⟩ := hc; rfl
  | cbw ch idx val => obtain ⟨_, rfl⟩ := hc; rfl
  | send base count => obtain ⟨_, rfl⟩ := hc; rfl
  | cfg imm => obtain ⟨_, rfl⟩ := hc; rfl
  | tstep a b => rw [hc, tuneEval_eq]; rfl
  | istep imm =>
    rw [hc]
    rcases indEval_cases config imm s with ⟨_, h⟩ | ⟨_, h⟩ <;> rw [h] <;> rfl
  | _ => rw [hc]; rfl

/-- The encoder leaves the master's words (R39) and the Tick Source's enable alone. -/
theorem encoderStep_frame {s t : State} (h : encoderStep s = .next t) : t.cmds = s.cmds ∧ t.run = s.run := by
  rcases encoderStep_cases h with ⟨_, rfl⟩ | ⟨_, _, _, _, rfl⟩ | ⟨_, _, rfl⟩ | ⟨_, _, rfl⟩ | ⟨_, rfl⟩
  case inr.inr.inl => simp [encEnd]
  all_goals exact ⟨rfl, rfl⟩

/-- R114: below `24 * ENC_CNT` the encoder's step in `Tx` is the bit step. -/
theorem encoderStep_of_bit {s : State} (hp : s.encPhase = .tx) (hlt : s.encPos.toNat < 24 * s.encCnt.toNat) :
    encoderStep s = encBit s := by
  simp [encoderStep, hp, hlt]

@[simp] theorem endTransmission_run (s : State) : (endTransmission s).run = s.run := by
  rcases endTransmission_cases s with ⟨_, _, h⟩ | ⟨_, h⟩ <;> rw [h]
  simp [encEnd]

/-- R115: the end-of-transmission step leaves the encoder in its quiet period. -/
theorem endTransmission_encPhase_of_end {s : State} (hp : s.encPhase = .tx)
    (hpos : s.encPos.toNat = 24 * s.encCnt.toNat) : (endTransmission s).encPhase = .quiet := by
  rw [endTransmission, if_pos ⟨hp, hpos⟩]
  rfl

/-- What an idle cycle can do: no word is presented, or the one presented decodes and runs after the tick (R204). -/
theorem cycleIdle_cases {due : Bool} {inp : CycleIn} {s t : State} (h : cycleIdle due inp s = .next t) :
    (inp.cmdValid = false ∧ t = tickWhen due { s with dout := false }) ∨
    (inp.cmdValid = true ∧ ∃ i u, decode inp.cmd = .command i ∧
      exec i (tickWhen due { s with dout := false }) = .next u ∧ t = endTransmission u) := by
  unfold cycleIdle at h
  cases hv : inp.cmdValid with
  | false => exact .inl ⟨rfl, by simpa [hv] using h.symm⟩
  | true =>
    simp only [hv, if_true] at h
    cases hd : decode inp.cmd with
    | reservedWord => simp [hd] at h
    | command i =>
      simp only [hd] at h
      cases hx : exec i (tickWhen due { s with dout := false }) with
      | next u => exact .inr ⟨rfl, i, u, rfl, hx, by simpa [hx] using h.symm⟩
      | fault r => simp [hx] at h
      | refused r => simp [hx] at h

/-- What a cycle of a transmission can do: a cycle within a slot, the last of a slot, the first of the quiet period, or
none of these beyond the last slot (R88, R114, R115). -/
theorem cycleTx_cases {p : Profile} {due : Bool} {s t : State} (h : cycleTx p due s = .next t) :
    (s.encPos.toNat < 24 * s.encCnt.toNat ∧
      ∃ b, frameBit s.cb s.encBase.toNat s.encPos.toNat = some b ∧
        (s.encCyc + 1 < p.slotCyc ∧
            t = tickWhen due { s with dout := s.encCyc < highCycles p b, encCyc := s.encCyc + 1 } ∨
          p.slotCyc ≤ s.encCyc + 1 ∧ ∃ u, encBit { s with encCyc := 0 } = .next u ∧
            t = tickWhen due (endTransmission { u with dout := s.encCyc < highCycles p b }))) ∨
    (s.encPos.toNat = 24 * s.encCnt.toNat ∧ t = cycleQuiet p due (endTransmission s)) ∨
    (24 * s.encCnt.toNat < s.encPos.toNat ∧ t = tickWhen due { s with dout := false }) := by
  unfold cycleTx at h
  split at h
  next hlt =>
    cases hb : frameBit s.cb s.encBase.toNat s.encPos.toNat with
    | none => simp [hb] at h
    | some b =>
      simp only [hb] at h
      refine .inl ⟨hlt, b, rfl, ?_⟩
      split at h
      next hcyc => exact .inl ⟨hcyc, (Host.Outcome.next.inj h).symm⟩
      next hcyc =>
        cases hx : encBit { s with encCyc := 0 } with
        | next u => exact .inr ⟨not_lt.mp hcyc, u, rfl, by simpa [hx] using h.symm⟩
        | fault r => simp [hx] at h
        | refused r => simp [hx] at h
  next hnlt =>
    split at h
    next hpos => exact .inr (.inl ⟨hpos, (Host.Outcome.next.inj h).symm⟩)
    next hpos => exact .inr (.inr ⟨by omega, (Host.Outcome.next.inj h).symm⟩)

end Sys2Proof.Machine

/-! ## Refinement of a piece of a cycle by moves -/

namespace Sys2Proof.Refinement

open Sys2Proof.Machine Sys2Proof.Claims

/-- `u` looks like `s` to the event level and has the words `ws` on its port. -/
structure Shows (ws : List Word) (s u : State) : Prop where
  view : eventView u = eventView s
  port : u.cmds = ws

/-- From every state that looks like `s` with the words `ws` on its port, at most `n` moves lead to one that looks like
`t` with the words `ws'`. -/
def Refines (n : Nat) (ws ws' : List Word) (s t : State) : Prop :=
  ∀ u, Shows ws s u → ∃ ms : List Move, ms.length ≤ n ∧ ∃ v, moveAll ms u = .next v ∧ Shows ws' t v

variable {n m : Nat} {ws ws' ws'' : List Word} {s t r : State}

theorem moveAll_append {ms ns : List Move} (h : moveAll ms s = .next t) : moveAll (ms ++ ns) s = moveAll ns t := by
  induction ms generalizing s with
  | nil => cases h; rfl
  | cons m ms ih =>
    simp only [moveAll, List.cons_append] at h ⊢
    cases hm : takeMove m s with
    | next u => rw [hm] at h; exact ih h
    | fault r => simp [hm] at h
    | refused r => simp [hm] at h

theorem moveAll_singleton {m : Move} (h : takeMove m s = .next t) : moveAll [m] s = .next t := by
  simp [moveAll, h]

/-- What changes nothing the event level sees takes no move. -/
theorem Refines.of_view (h : eventView s = eventView t) : Refines n ws ws s t :=
  fun u hu => ⟨[], n.zero_le, u, rfl, hu.view.trans h, hu.port⟩

theorem Refines.trans (h : Refines m ws ws' s t) (h' : Refines n ws' ws'' t r) : Refines (m + n) ws ws'' s r := by
  intro u hu
  obtain ⟨ms, hms, v, hv, hvt⟩ := h u hu
  obtain ⟨ns, hns, w, hw, hwr⟩ := h' v hvt
  exact ⟨ms ++ ns, by rw [List.length_append]; omega, w, by rw [moveAll_append hv, hw], hwr⟩

theorem Refines.mono (h : Refines m ws ws' s t) (hmn : m ≤ n) : Refines n ws ws' s t := by
  intro u hu
  obtain ⟨ms, hms, hv⟩ := h u hu
  exact ⟨ms, hms.trans hmn, hv⟩

/-- What a piece of a cycle starts from and leaves behind matters only as far as the event level sees it. -/
theorem Refines.congr {s' t' : State} (h : Refines n ws ws' s t) (hs : eventView s' = eventView s)
    (ht : eventView t = eventView t') : Refines n ws ws' s' t' := by
  intro u hu
  obtain ⟨ms, hms, v, hv, hvt⟩ := h u ⟨hu.view.trans hs, hu.port⟩
  exact ⟨ms, hms, v, hv, hvt.view.trans ht, hvt.port⟩

/-- R230: a reset is a reset move, whatever is on the port. -/
theorem refines_resetBlock : Refines 1 ws ws s (resetBlock s) := by
  intro u hu
  refine ⟨[.rst], le_rfl, resetBlock u, rfl, ?_, hu.port⟩
  rw [← eventView_resetBlock u, hu.view, eventView_resetBlock]

/-- R136: the tick event of a cycle is a tick move, and a cycle without one takes none. -/
theorem refines_tickWhen {due : Bool} {s' : State} (hs : eventView s = eventView s')
    (hrun : due = true → s.run = true) : Refines 1 ws ws s (tickWhen due s') := by
  cases due with
  | false => exact .of_view hs
  | true =>
    intro u hu
    have hr : u.run = true := (congrArg State.run hu.view).trans (hrun rfl)
    have hstep : tickStep u = (tick u).silent := if_pos hr
    refine ⟨[.tick], le_rfl, (tick u).silent, moveAll_singleton (congrArg _ hstep), ?_, by simp [hu.port]⟩
    calc eventView (tick u).silent = tick (eventView u) := (tick_eventView u).symm
      _ = eventView (tick s') := by rw [hu.view, hs, tick_eventView]

/-- The same after the line has gone low, as at the start of most cycles. -/
theorem refines_lowTick {due : Bool} (hrun : due = true → s.run = true) :
    Refines 1 ws ws s (tickWhen due { s with dout := false }) :=
  refines_tickWhen rfl hrun

/-- R39: while a SEND is in progress, a step of the encoder is a block move, whatever is on the port. -/
theorem refines_encoderStep (hp : s.encPhase ≠ .idle) (h : encoderStep s = .next t) : Refines 1 ws ws s t := by
  intro u hu
  have hup : u.encPhase ≠ .idle := (congrArg State.encPhase hu.view).trans_ne hp
  obtain ⟨v, hv, hvt⟩ := encoderStep_viewOnly.carry h hu.view
  have hmove : takeMove .block u = .next v := (blockStep_busy hup).trans hv
  exact ⟨[.block], le_rfl, v, moveAll_singleton hmove, hvt, (encoderStep_frame hv).1.trans hu.port⟩

/-- R39: while no SEND is in progress, the command presented is a block move, which takes its word off the port. -/
theorem refines_exec {w : Word} {i : Instr} (hp : s.encPhase = .idle) (hd : decode w = .command i)
    (h : exec i s = .next t) : Refines 1 [w] [] s t := by
  intro u hu
  have hup : u.encPhase = .idle := (congrArg State.encPhase hu.view).trans hp
  obtain ⟨v, hv, hvt⟩ := (exec_viewOnly i).carry (u := { u with cmds := [] }) h hu.view
  have haccept : acceptCommand u = .next v := by simp only [acceptCommand, hu.port, hd, hv]
  have hmove : takeMove .block u = .next v := (blockStep_idle hup).trans haccept
  exact ⟨[.block], le_rfl, v, moveAll_singleton hmove, hvt, exec_cmds hv⟩

/-- R115: the end-of-transmission step, where it is due. -/
theorem refines_endTransmission : Refines 1 ws ws s (endTransmission s) := by
  rcases endTransmission_cases s with ⟨hp, hpos, h⟩ | ⟨_, h⟩ <;> rw [h]
  · have henc : encoderStep s = .next (encEnd s) := by simp [encoderStep, hp, hpos]
    exact (refines_encoderStep (by simp [hp]) henc).congr rfl rfl
  · exact .of_view rfl

/-- R116: the quiet step. -/
theorem refines_encQuiet (hp : s.encPhase = .quiet) : Refines 1 ws ws s (encQuiet s) :=
  refines_encoderStep (by simp [hp]) (by simp [encoderStep, hp])

/-! ## Refinement of a cycle, by the encoder's phase -/

/-- The words a cycle presents to a block that is ready. -/
def presented (inp : CycleIn) : List Word := if inp.cmdValid then [inp.cmd] else []

variable {p : Profile} {inp : CycleIn} {due : Bool}

/-- R204: a tick, the command presented, and the end of a transmission of no colour. -/
theorem refines_cycleIdle (hrun : due = true → s.run = true) (hp : s.encPhase = .idle)
    (h : cycleIdle due inp s = .next t) : Refines 3 (presented inp) [] s t := by
  rcases cycleIdle_cases h with ⟨hv, rfl⟩ | ⟨hv, i, u, hd, hx, rfl⟩ <;> rw [presented, hv]
  · exact (refines_lowTick hrun).mono (by omega)
  · have hcommand := refines_exec (by simpa using hp) hd hx
    exact ((refines_lowTick hrun).trans hcommand).trans refines_endTransmission

/-- R90, R116: a tick, and in the last cycle the quiet step. -/
theorem refines_cycleQuiet (hrun : due = true → s.run = true) (hp : s.encPhase = .quiet) :
    Refines 2 ws ws s (cycleQuiet p due s) := by
  unfold cycleQuiet
  dsimp only
  split
  · exact ((refines_lowTick hrun).mono (by omega)).congr rfl rfl
  · exact ((refines_lowTick hrun).trans (refines_encQuiet (by simpa using hp))).congr rfl rfl

/-- R88, R114: the last cycle of a slot: the bit step, the end of the transmission where it is due, and a tick. -/
theorem refines_slotEnd {level : Bool} (hrun : due = true → s.run = true) (hp : s.encPhase = .tx)
    (hlt : s.encPos.toNat < 24 * s.encCnt.toNat) (h : encBit { s with encCyc := 0 } = .next t) :
    Refines 3 ws ws s (tickWhen due (endTransmission { t with dout := level })) := by
  have hstep : encoderStep { s with encCyc := 0 } = .next t := by
    rw [encoderStep_of_bit (by exact hp) (by exact hlt), h]
  have hbit : Refines 1 ws ws s { t with dout := level } := (refines_encoderStep (by simp [hp]) hstep).congr rfl rfl
  have ht : t.run = s.run := (encoderStep_frame hstep).2
  exact (hbit.trans refines_endTransmission).trans (refines_tickWhen rfl (by simpa [ht] using hrun))

/-- R88, R114, R115: a cycle of a transmission. -/
theorem refines_cycleTx (hrun : due = true → s.run = true) (hp : s.encPhase = .tx)
    (h : cycleTx p due s = .next t) : Refines 3 ws ws s t := by
  rcases cycleTx_cases h with ⟨hlt, b, _, ⟨_, rfl⟩ | ⟨_, u, hu, rfl⟩⟩ | ⟨hpos, rfl⟩ | ⟨_, rfl⟩
  · exact Refines.mono (refines_tickWhen rfl hrun) (by omega)
  · exact refines_slotEnd hrun hp hlt hu
  · have hquiet : (endTransmission s).encPhase = .quiet := endTransmission_encPhase_of_end hp hpos
    exact refines_endTransmission.trans (refines_cycleQuiet (by simpa using hrun) hquiet)
  · exact (refines_lowTick hrun).mono (by omega)

/-- R9: a cycle, the word presented to a ready block on the port, is at most three moves. -/
theorem refines_cycle (h : cycle p inp s = .next t) :
    ∃ ws', Refines 3 (if inp.cmdValid && s.cmdReady then [inp.cmd] else []) ws' s t := by
  cases hr : inp.rst with
  | true =>
    rw [cycle_rst hr] at h
    rw [← Host.Outcome.next.inj h]
    exact ⟨_, refines_resetBlock.mono (by omega)⟩
  | false =>
    have hview : eventView s = eventView (countDivider p s).silent := by rw [countDivider_eq]; rfl
    have hrun : tickDue p s = true → (countDivider p s).silent.run = true := by
      rw [countDivider_eq]
      exact fun hdue => (Bool.and_eq_true_iff.mp hdue).1
    have hphase : (countDivider p s).silent.encPhase = s.encPhase := by rw [countDivider_eq]; rfl
    cases hp : s.encPhase with
    | idle =>
      rw [cycle_idle hr hp] at h
      have hport : (if inp.cmdValid && s.cmdReady then [inp.cmd] else []) = presented inp := by
        simp [presented, State.cmdReady, hp]
      rw [hport]
      exact ⟨[], (refines_cycleIdle hrun (hphase.trans hp) h).congr hview rfl⟩
    | tx =>
      rw [cycle_tx hr hp] at h
      exact ⟨_, (refines_cycleTx hrun (hphase.trans hp) h).congr hview rfl⟩
    | quiet =>
      rw [cycle_quiet hr hp] at h
      rw [← Host.Outcome.next.inj h]
      exact ⟨_, ((refines_cycleQuiet hrun (hphase.trans hp)).mono (by omega)).congr hview rfl⟩

/-- Settles O53: a cycle refines at most three moves, from the state with the presented word on its port. -/
theorem cyclesRefineEvents : Obligations.CyclesRefineEvents := by
  intro p inp s t h
  obtain ⟨ws', href⟩ := refines_cycle h
  obtain ⟨ms, hms, u, hu, hshows⟩ := href
    { s with cmds := if inp.cmdValid && s.cmdReady then [inp.cmd] else [] } ⟨rfl, rfl⟩
  exact ⟨ms, hms, u, hu, hshows.view⟩

end Sys2Proof.Refinement

/-! ## A step is the next move's -/

namespace Sys2Proof.Machine

/-- A block with no SEND in progress and no word presented waits; the response is cleared (log 2, log 12). -/
theorem blockStep_waits {s : State} (hp : s.encPhase = .idle) (hc : s.cmds = []) :
    blockStep s = .next { s with rsp := none } := by
  rw [blockStep_idle hp]
  simp [acceptCommand, hc, State.silent]

/-- Settles O6: the moves one by one, then the two sides of the block's own move. -/
theorem stepTakesTheNextMove : Obligations.StepTakesTheNextMove := by
  intro s
  exact ⟨step_of_no_moves, fun _ => step_of_move, fun _ => step_of_move, fun _ => step_of_move, blockStep_busy,
    blockStep_waits⟩

end Sys2Proof.Machine
end

section
/-! PROOFS of the family `10_state.md`: every step keeps the invariant (O50), who writes which element (O42, O43, O11),
the ticks of the cycle level (O55), and what a step, a reset and an evaluation show (O7, O47, O58). -/

namespace Sys2Proof.Machine

/-! ## The invariant, part by part -/

variable {s t : State}

theorem reset_inv : State.reset.Inv :=
  ⟨by decide, by decide, by decide, by decide, by decide, by decide, by decide, by decide⟩

theorem resetBlock_inv (s : State) : (resetBlock s).Inv :=
  { reset_inv with }

/-- R137: a handler run keeps the countdown between 1 and the period. -/
theorem handler_schedulerInv (h : s.SchedulerInv) : (handler s).SchedulerInv := by
  obtain ⟨hperiod, hcount, hle⟩ := h
  have hlt := s.count.isLt
  rw [handler_of_count hcount]
  split
  · exact ⟨hperiod, hperiod, le_rfl⟩
  · have hdec : (BitVec.ofNat 16 (s.count.toNat - 1)).toNat = s.count.toNat - 1 := by
      rw [BitVec.toNat_ofNat, Nat.mod_eq_of_lt (by omega)]
    refine ⟨hperiod, ?_, ?_⟩ <;> dsimp only <;> omega

theorem tick_schedulerInv (h : s.SchedulerInv) : (tick s).SchedulerInv := by
  rcases tick_cases s with ⟨_, he⟩ | ⟨_, _, he⟩ | ⟨_, _, he⟩ <;> rw [he]
  · exact handler_schedulerInv h
  · exact h
  · exact h

theorem openGate_schedulerInv (h : s.SchedulerInv) : (openGate s).SchedulerInv := by
  rcases openGate_cases s with ⟨_, he⟩ | ⟨_, he⟩ <;> rw [he]
  · exact handler_schedulerInv (s := { s with ie := true, tpend := false }) h
  · exact h

/-- R25: a tick is held only behind a closed gate. -/
theorem tick_gateInv (h : s.GateInv) : (tick s).GateInv := by
  obtain ⟨hgate, htpend⟩ := h
  rcases tick_cases s with ⟨_, he⟩ | ⟨_, _, he⟩ | ⟨hie, _, he⟩ <;> rw [he]
  · exact ⟨by simpa using hgate, by simpa using htpend⟩
  · exact ⟨hgate, htpend⟩
  · exact ⟨hgate, by simp [hie]⟩

/-- R118: a history read as frames goes on from the pulses it ends with. -/
theorem framedPulses_append (n : Nat) (es fs : List LineEvent) :
    framedPulses n (es ++ fs) = (framedPulses n es).bind (fun k => framedPulses k fs) := by
  induction es generalizing n with
  | nil => rfl
  | cons e es ih =>
    cases e with
    | pulse b => exact ih (n + 1)
    | quiet =>
      simp only [List.cons_append, framedPulses]
      split
      · exact ih 0
      · rfl

/-- R156: the lock-step at a level in range stays inside the bounds. -/
theorem Config.lockStep_le {c : Config} (hc : c.wf = true) {k : Nat} (hk : k ≤ c.tuneMax) :
    c.thrMin + k * c.thrStep ≤ c.thrMax := by
  obtain ⟨-, -, -, -, hmax, -⟩ := Config.wf_bounds hc
  have := Nat.mul_le_mul_right c.thrStep hk
  omega

/-- R153, R154: threshold and tune level written in lock-step fit their registers and keep the invariant. -/
theorem retune_tuningInv {c : Config} (hc : c.wf = true) {x k : Nat} (hx : x = c.thrMin + k * c.thrStep)
    (hk : k ≤ c.tuneMax) : (s.retune (some x) (some k)).TuningInv c := by
  obtain ⟨-, -, hmax, -, -, -, htune, -⟩ := Config.wf_bounds hc
  have hle := Config.lockStep_le hc hk
  have hthresh : (s.retune (some x) (some k)).thresh.toNat = x := narrow_toNat (by omega)
  have hlevel : (s.retune (some x) (some k)).tune.toNat = k := narrow_toNat (by omega)
  refine ⟨by rw [hthresh, hlevel, hx], by rw [hlevel]; exact hk, ?_, ?_⟩ <;> intro hstate <;> cases hstate

theorem tuneStart_tuningInv {c : Config} (hc : c.wf = true) : (tuneStart c s).TuningInv c := by
  obtain ⟨-, hlt, hmax, -, -, hdefault, -⟩ := Config.wf_bounds hc
  refine ⟨?_, Nat.zero_le _, ?_, ?_⟩
  · have : (BitVec.ofNat 16 c.thrDefault).toNat = c.thrMin := by
      rw [BitVec.toNat_ofNat, hdefault, Nat.mod_eq_of_lt (by omega)]
    simpa [tuneStart] using this
  all_goals intro hstate; cases hstate

theorem tuneHold_tuningInv {c : Config} (a b : Bool) (h : s.TuningInv c) : (tuneHold c a b s).TuningInv c := by
  obtain ⟨hlock, hlevel, -, -⟩ := h
  refine ⟨hlock, hlevel, ?_, ?_⟩ <;> simp only [tuneHold] <;> split_ifs <;> simp_all

theorem tuneAdd_tuningInv {c : Config} (hc : c.wf = true) (h : s.TuningInv c) (hs : s.tstate = .add) :
    (tuneAdd c s).TuningInv c := by
  obtain ⟨hlock, hlevel, hadd, -⟩ := h
  obtain ⟨-, -, -, -, hmax, -⟩ := Config.wf_bounds hc
  have hbelow := hadd hs
  have hroom : s.tune.toNat ≠ c.tuneMax := fun he => by rw [he] at hlock; omega
  exact retune_tuningInv hc (by rw [hlock, Nat.succ_mul, Nat.add_assoc]) (by omega)

theorem tuneSub_tuningInv {c : Config} (hc : c.wf = true) (h : s.TuningInv c) (hs : s.tstate = .sub) :
    (tuneSub c s).TuningInv c := by
  obtain ⟨hlock, hlevel, -, hsub⟩ := h
  have habove := hsub hs
  obtain ⟨k, hk⟩ : ∃ k, s.tune.toNat = k + 1 :=
    Nat.exists_eq_add_one_of_ne_zero fun he => by rw [he, Nat.zero_mul] at hlock; omega
  rw [hk, Nat.succ_mul] at hlock
  rw [tuneSub, subExact, subExact, if_pos (by omega), if_pos (by omega)]
  exact retune_tuningInv (k := s.tune.toNat - 1) hc (by rw [hk, Nat.add_sub_cancel]; omega) (by omega)

/-- R156: every evaluation keeps the lock-step and the bounds, and one in `Start` establishes them. -/
theorem tuneEval_tuningInv {c : Config} (hc : c.wf = true) (a b : Bool) (h : s.tstate = .start ∨ s.TuningInv c) :
    (tuneEval c a b s).TuningInv c := by
  rcases tuneEval_cases c a b s with ⟨_, he⟩ | ⟨hs, he⟩ | ⟨hs, he⟩ | ⟨hs, he⟩ | ⟨hs, he⟩ <;> rw [he]
  · exact tuneStart_tuningInv hc
  all_goals replace h := h.resolve_left (by simp [hs])
  · exact tuneHold_tuningInv a b h
  · exact tuneAdd_tuningInv hc h hs
  · exact tuneSub_tuningInv hc h hs
  · obtain ⟨hlock, hlevel, -, -⟩ := h
    refine ⟨hlock, hlevel, ?_, ?_⟩ <;> simp only [tuneWait] <;> split <;> simp

/-- R93: every level of a well-formed configuration has its entry in the mask. -/
theorem maskAt_mem {c : Config} (hc : c.wf = true) (k : BitVec 3) : maskAt c k ∈ c.mask := by
  obtain ⟨-, -, -, -, -, -, -, hlength⟩ := Config.wf_bounds hc
  have hk : k.toNat < c.mask.length := by omega
  rw [maskAt, List.getD_eq_getElem _ _ hk]
  exact List.getElem_mem hk

/-- R35, R36: the outputs written together agree with each other. -/
theorem indicate_indicatorInv {c : Config} (hc : c.wf = true) (on : Bool) : (s.indicate c on).IndicatorInv c := by
  cases on with
  | false => simp [State.IndicatorInv]
  | true => simp [State.IndicatorInv, maskAt_mem hc]

/-! ## Every agent's step keeps the invariant -/

/-- R39: a command accepted while no SEND is in progress keeps the invariant. -/
theorem exec_keeps_inv {i : Instr} (h : s.Inv) (hp : s.encPhase = .idle) (hx : exec i s = .next t) : t.Inv := by
  have hc := exec_next_cases hx
  cases i with
  | cbw ch idx val =>
    obtain ⟨hrange, rfl⟩ := hc
    exact { h with memory := Memory.wf_write val (colourAddr_lt hrange) h.memory }
  | cbr ch idx => obtain ⟨-, v, -, rfl⟩ := hc; exact { h with }
  | send base count =>
    obtain ⟨hrange, rfl⟩ := hc
    obtain ⟨hline, hdout⟩ := h.line
    exact { h with
      encoder := ⟨frameInRange_iff.mp hrange, Nat.zero_le _, fun hne => absurd rfl hne⟩
      gate := ⟨by simp, by simp⟩
      line := ⟨by simpa [hp] using hline, hdout⟩ }
  | cfg imm =>
    obtain ⟨hrange, rfl⟩ := hc
    have hpos := periodInRange_iff.mp hrange
    exact { h with scheduler := ⟨hpos, hpos, le_rfl⟩ }
  | start =>
    subst hc
    obtain ⟨hperiod, -, -⟩ := h.scheduler
    exact { h with scheduler := ⟨hperiod, hperiod, le_rfl⟩, divider := ⟨Nat.zero_lt_succ _, Nat.two_pow_pos _⟩ }
  | tstep a b =>
    rw [hc, tuneEval_eq]
    exact { h with tuning := tuneEval_tuningInv config_wf a b (.inr h.tuning) }
  | istep imm =>
    have hind on := indicate_indicatorInv (s := s) config_wf on
    rw [hc]
    rcases indEval_cases config imm s with ⟨_, he⟩ | ⟨_, he⟩ <;> rw [he] <;> exact { h with indicator := hind _ }
  | rdr reg => obtain ⟨-, v, -, rfl⟩ := hc; exact { h with }
  | _ => subst hc; exact { h with }

/-- R114: a bit step keeps the invariant: the position stays in its 13 bits and counts the new pulse. -/
theorem bitStep_keeps_inv (h : s.Inv) (hp : s.encPhase = .tx) (hlt : s.encPos.toNat < 24 * s.encCnt.toNat)
    (b : Bool) : ({ s with encPos := s.encPos + 1 }.emit (.pulse b)).silent.Inv := by
  obtain ⟨hframe, -, -⟩ := h.encoder
  obtain ⟨hline, -⟩ := h.line
  have hpos : (s.encPos + 1).toNat = s.encPos.toNat + 1 :=
    BitVec.toNat_add_of_lt (by rw [config_nMax] at hframe; change s.encPos.toNat + 1 < 8192; omega)
  have hpulse : framedPulses 0 (s.line ++ [.pulse b]) = some (s.encPos + 1).toNat := by
    rw [framedPulses_append, hline, if_neg (by simp [hp]), hpos]
    rfl
  exact { h with
    encoder := ⟨hframe, hpos.trans_le hlt, fun hne => absurd hp hne⟩
    line := ⟨by simpa [hp] using hpulse, rfl⟩ }

/-- R115: the end-of-transmission step keeps the invariant: the gate opens as the phase leaves `Tx`. -/
theorem encEnd_keeps_inv (h : s.Inv) (hp : s.encPhase = .tx) (hpos : s.encPos.toNat = 24 * s.encCnt.toNat) :
    (encEnd s).Inv := by
  obtain ⟨hframe, hle, -⟩ := h.encoder
  obtain ⟨hline, hdout⟩ := h.line
  have hscheduler := openGate_schedulerInv h.scheduler
  rw [openGate_eq] at hscheduler
  rw [encEnd, openGate_eq]
  exact { h with
    encoder := ⟨hframe, hle, fun _ => hpos⟩
    gate := ⟨by simp, fun _ => rfl⟩
    scheduler := hscheduler
    line := ⟨by simpa [hp] using hline, hdout⟩ }

/-- R116: the quiet step keeps the invariant: it closes a frame of whole colours. -/
theorem encQuiet_keeps_inv (h : s.Inv) (hp : s.encPhase = .quiet) : (encQuiet s).Inv := by
  obtain ⟨hframe, hle, hdone⟩ := h.encoder
  obtain ⟨hgate, htpend⟩ := h.gate
  obtain ⟨hline, -⟩ := h.line
  have hpos := hdone (by simp [hp])
  have hclosed : framedPulses 0 (s.line ++ [.quiet]) = some 0 := by
    rw [framedPulses_append, hline, if_neg (by simp [hp]), hpos]
    exact if_pos (Nat.mul_mod_right 24 _)
  exact { h with
    encoder := ⟨hframe, hle, fun _ => hpos⟩
    gate := ⟨by simpa [encQuiet, hp] using hgate, htpend⟩
    line := ⟨by simpa [encQuiet] using hclosed, rfl⟩ }

/-- R114 to R116: every step of the encoder keeps the invariant. -/
theorem encoderStep_keeps_inv (h : s.Inv) (hx : encoderStep s = .next t) : t.Inv := by
  rcases encoderStep_cases hx with
    ⟨_, rfl⟩ | ⟨hp, hlt, b, _, rfl⟩ | ⟨hp, hpos, rfl⟩ | ⟨_, _, rfl⟩ | ⟨hp, rfl⟩
  · exact { h with }
  · exact bitStep_keeps_inv h hp hlt b
  · exact encEnd_keeps_inv h hp hpos
  · exact { h with }
  · exact encQuiet_keeps_inv h hp

/-- R136: a tick step keeps the invariant. -/
theorem tickStep_keeps_inv (h : s.Inv) : (tickStep s).Inv := by
  rcases tickStep_cases s with ⟨_, he⟩ | ⟨_, he⟩ <;> rw [he]
  · have hgate := tick_gateInv h.gate
    have hscheduler := tick_schedulerInv h.scheduler
    rw [tick_eq] at hgate hscheduler ⊢
    exact { h with gate := hgate, scheduler := hscheduler }
  · exact { h with }

/-- R39: accepting a command, or waiting for one, keeps the invariant. -/
theorem acceptCommand_keeps_inv (h : s.Inv) (hp : s.encPhase = .idle) (hx : acceptCommand s = .next t) : t.Inv := by
  rcases acceptCommand_cases hx with ⟨_, rfl⟩ | ⟨w, ws, i, _, _, hi⟩
  · exact { h with }
  · have hs : { s with cmds := ws }.Inv := { h with }
    exact exec_keeps_inv hs hp hi

/-- Settles O50: the move taken is a command, a step of the encoder, a tick or a reset, and each keeps every part of the
invariant. -/
theorem everyStepKeepsInv : Obligations.EveryStepKeepsInv := by
  intro s t h hstep
  obtain ⟨m, u, rfl, -, hm⟩ := step_cases hstep
  have hs : { s with moves := s.moves.tail }.Inv := { h with }
  rcases takeMove_cases hm with ⟨_, hp, hx⟩ | ⟨_, _, hx⟩ | ⟨_, rfl⟩ | ⟨_, rfl⟩
  · exact acceptCommand_keeps_inv hs hp hx
  · exact encoderStep_keeps_inv hs hx
  · exact tickStep_keeps_inv hs
  · exact resetBlock_inv _

end Sys2Proof.Machine

/-! ## Who writes which element -/

namespace Sys2Proof.Machine

variable {s t : State}

/-- Settles O42: each command's next state, field by field. -/
theorem commandsWriteOnlyTheirOwn : Obligations.CommandsWriteOnlyTheirOwn := by
  intro i s t h
  have hc := exec_next_cases h
  cases i with
  | cbw ch idx val => obtain ⟨_, rfl⟩ := hc; simp +contextual [Memory.read_write_other]
  | cbr ch idx => obtain ⟨_, v, _, rfl⟩ := hc; simp
  | send base count => obtain ⟨_, rfl⟩ := hc; simp
  | cfg imm => obtain ⟨_, rfl⟩ := hc; simp
  | tstep a b => rw [hc, tuneEval_eq]; simp
  | istep imm =>
    rw [hc]
    rcases indEval_cases config imm s with ⟨_, he⟩ | ⟨_, he⟩ <;> rw [he] <;> simp
  | rdr reg => obtain ⟨_, v, _, rfl⟩ := hc; simp
  | _ => subst hc; simp

/-- R37: no command puts an event on the line. -/
theorem exec_line {i : Instr} (h : exec i s = .next t) : t.line = s.line := by
  obtain ⟨-, -, -, hline, -⟩ := commandsWriteOnlyTheirOwn i s t h
  exact hline

/-- R30: a command leaves `TF` as it is or is one of the two that clear it. -/
theorem exec_tf_cases {i : Instr} (h : exec i s = .next t) :
    t.tf = s.tf ∨ ((i = .tfclr ∨ i = .tftac) ∧ t.tf = false) := by
  obtain ⟨-, -, -, -, -, -, -, -, -, -, -, htf, -⟩ := commandsWriteOnlyTheirOwn i s t h
  by_cases hclr : i = .tfclr
  · subst hclr
    exact .inr ⟨.inl rfl, by rw [exec_next_cases h]; rfl⟩
  · by_cases htac : i = .tftac
    · subst htac
      exact .inr ⟨.inr rfl, by rw [exec_next_cases h]; rfl⟩
    · exact .inl (htf hclr htac)

/-- R137: neither a tick nor opening the gate lowers a raised flag. -/
theorem tick_keeps_tf (h : s.tf = true) : (tick s).tf = true := by
  rcases tick_cases s with ⟨_, he⟩ | ⟨_, _, he⟩ | ⟨_, _, he⟩ <;> simp [he, h]

theorem openGate_keeps_tf (h : s.tf = true) : (openGate s).tf = true := by
  rcases openGate_cases s with ⟨_, he⟩ | ⟨_, he⟩ <;> simp [he, h]

/-- R30, R115: the encoder touches `TF` only as it ends a transmission. -/
theorem encoderStep_tf_cases (h : encoderStep s = .next t) :
    t.tf = s.tf ∨ (s.encPhase = .tx ∧ t.encPhase = .quiet ∧ (s.tf = true → t.tf = true)) := by
  rcases encoderStep_cases h with ⟨_, rfl⟩ | ⟨_, _, _, _, rfl⟩ | ⟨hp, _, rfl⟩ | ⟨_, _, rfl⟩ | ⟨_, rfl⟩
  case inr.inr.inl => exact .inr ⟨hp, rfl, openGate_keeps_tf⟩
  all_goals exact .inl rfl

/-- R37, R114, R116: the encoder puts at most one event on the line in a step. -/
theorem encoderStep_line (h : encoderStep s = .next t) : t.line = s.line ∨ ∃ e, t.line = s.line ++ [e] := by
  rcases encoderStep_cases h with ⟨_, rfl⟩ | ⟨_, _, b, _, rfl⟩ | ⟨_, _, rfl⟩ | ⟨_, _, rfl⟩ | ⟨_, rfl⟩
  · exact .inl rfl
  · exact .inr ⟨_, rfl⟩
  · exact .inl (openGate_line s)
  · exact .inl rfl
  · exact .inr ⟨_, rfl⟩

/-- R39: accepting a command, or waiting for one, puts nothing on the line. -/
theorem acceptCommand_line (h : acceptCommand s = .next t) : t.line = s.line := by
  rcases acceptCommand_cases h with ⟨_, rfl⟩ | ⟨w, ws, i, _, _, hi⟩
  · rfl
  · have hline := exec_line hi
    exact hline

/-- R30: accepting a command leaves `TF` as it is, or the word is one of the two that clear it. -/
theorem acceptCommand_tf_cases (h : acceptCommand s = .next t) :
    t.tf = s.tf ∨ (t.tf = false ∧ ∃ w ws, s.cmds = w :: ws ∧
      (decode w = .command .tfclr ∨ decode w = .command .tftac)) := by
  rcases acceptCommand_cases h with ⟨_, rfl⟩ | ⟨w, ws, i, hc, hd, hi⟩
  · exact .inl rfl
  · rcases exec_tf_cases hi with htf | ⟨rfl | rfl, htf⟩
    · exact .inl htf
    · exact .inr ⟨htf, w, ws, hc, .inl hd⟩
    · exact .inr ⟨htf, w, ws, hc, .inr hd⟩

/-- R136: a tick step does not lower a raised flag. -/
theorem tickStep_keeps_tf (h : s.tf = true) : (tickStep s).tf = true := by
  rcases tickStep_cases s with ⟨_, he⟩ | ⟨_, he⟩ <;> rw [he]
  · exact tick_keeps_tf h
  · exact h

theorem tickStep_line (s : State) : (tickStep s).line = s.line := by
  rcases tickStep_cases s with ⟨_, he⟩ | ⟨_, he⟩ <;> simp [he]

/-- R30, R41: what a move of the block or of the Tick Source does to `TF`: nothing, a handler run's raise, or the
clearing of TFCLR or TFTAC. -/
theorem takeMove_tf_cases {m : Move} (hm : m ≠ .rst) (h : takeMove m s = .next t) :
    t.tf = s.tf ∨
    ((s.tf = true → t.tf = true) ∧ (m = .tick ∨ (s.encPhase = .tx ∧ t.encPhase = .quiet))) ∨
    (t.tf = false ∧ s.encPhase = .idle ∧ ∃ w ws, s.cmds = w :: ws ∧
      (decode w = .command .tfclr ∨ decode w = .command .tftac)) := by
  rcases takeMove_cases h with ⟨_, hp, hx⟩ | ⟨_, _, hx⟩ | ⟨htick, rfl⟩ | ⟨hrst, _⟩
  · rcases acceptCommand_tf_cases hx with htf | ⟨hclear, hword⟩
    · exact .inl htf
    · exact .inr (.inr ⟨hclear, hp, hword⟩)
  · rcases encoderStep_tf_cases hx with htf | ⟨htx, hquiet, hkeeps⟩
    · exact .inl htf
    · exact .inr (.inl ⟨hkeeps, .inr ⟨htx, hquiet⟩⟩)
  · exact .inr (.inl ⟨tickStep_keeps_tf, .inl htick⟩)
  · exact absurd hrst hm

/-- R37, R41: what a move of the block or of the Tick Source does to the line: nothing, or one event of a SEND. -/
theorem takeMove_line {m : Move} (hm : m ≠ .rst) (h : takeMove m s = .next t) :
    t.line = s.line ∨ (s.encPhase ≠ .idle ∧ m = .block ∧ ∃ e, t.line = s.line ++ [e]) := by
  rcases takeMove_cases h with ⟨_, _, hx⟩ | ⟨hblock, hp, hx⟩ | ⟨_, rfl⟩ | ⟨hrst, _⟩
  · exact .inl (acceptCommand_line hx)
  · exact (encoderStep_line hx).imp_right fun he => ⟨hp, hblock, he⟩
  · exact .inl (tickStep_line s)
  · exact absurd hrst hm

/-- A move other than the block's is taken only where it is listed. -/
theorem head?_getD_block_eq_iff {ms : List Move} {m : Move} (hm : m ≠ .block) :
    ms.head?.getD .block = m ↔ ms.head? = some m := by
  cases ms with
  | nil => simp [hm.symm]
  | cons n ns => simp

/-- Settles O43: the move taken is the block's or the Tick Source's. -/
theorem flagAndLineHaveOneWriter : Obligations.FlagAndLineHaveOneWriter := by
  intro s t hrst hstep
  obtain ⟨m, u, rfl, rfl, hx⟩ := step_cases hstep
  have hnorst := mt (head?_getD_block_eq_iff (m := .rst) (by decide)).mp hrst
  have htf := takeMove_tf_cases hnorst hx
  refine ⟨fun hlow hhigh => ?_, fun hhigh hlow => ?_, (takeMove_line hnorst hx).imp_right ?_⟩
  · rcases htf with heq | ⟨_, hrun⟩ | ⟨hclear, _⟩
    · exact absurd (heq.symm.trans hhigh) (by simp [hlow])
    · exact hrun.imp_left (head?_getD_block_eq_iff (by decide)).mp
    · exact absurd (hclear.symm.trans hhigh) (by decide)
  · rcases htf with heq | ⟨hkeeps, _⟩ | ⟨_, hclears⟩
    · exact absurd (heq.symm.trans hlow) (by simp [hhigh])
    · exact absurd ((hkeeps hhigh).symm.trans hlow) (by decide)
    · exact hclears
  · rintro ⟨hp, hblock, he⟩
    exact ⟨hp, fun htick => by simp [htick] at hblock, he⟩

/-- R39, R234: the master's words wait, what a command alone writes is as it was, nothing is answered, and a raised flag
stays raised. -/
def CommandsHeld (s t : State) : Prop :=
  t.cmds = s.cmds ∧ t.cb = s.cb ∧ t.run = s.run ∧ t.period = s.period ∧ t.tstate = s.tstate ∧
  t.thresh = s.thresh ∧ t.tune = s.tune ∧ t.istate = s.istate ∧ t.indFlag = s.indFlag ∧
  t.indPattern = s.indPattern ∧ t.rsp = none ∧ (s.tf = true → t.tf = true)

theorem encoderStep_commandsHeld (h : encoderStep s = .next t) : CommandsHeld s t := by
  rcases encoderStep_cases h with ⟨_, rfl⟩ | ⟨_, _, b, _, rfl⟩ | ⟨_, _, rfl⟩ | ⟨_, _, rfl⟩ | ⟨_, rfl⟩
  case inr.inr.inl => simp +contextual [CommandsHeld, encEnd, openGate_keeps_tf]
  all_goals simp [CommandsHeld, encQuiet]

theorem tickStep_commandsHeld (s : State) : CommandsHeld s (tickStep s) := by
  rcases tickStep_cases s with ⟨_, he⟩ | ⟨_, he⟩ <;> rw [he]
  · simp +contextual [CommandsHeld, tick_keeps_tf]
  · simp [CommandsHeld]

theorem takeMove_commandsHeld {m : Move} (hm : m ≠ .rst) (hp : s.encPhase ≠ .idle) (h : takeMove m s = .next t) :
    CommandsHeld s t := by
  rcases takeMove_cases h with ⟨_, hidle, _⟩ | ⟨_, _, hx⟩ | ⟨_, rfl⟩ | ⟨hrst, _⟩
  · exact absurd hidle hp
  · exact encoderStep_commandsHeld hx
  · exact tickStep_commandsHeld s
  · exact absurd hrst hm

/-- Settles O11: during a SEND the moves that are no reset are the encoder's and the Tick Source's. -/
theorem masterWaitsDuringSend : Obligations.MasterWaitsDuringSend := by
  intro s t hp hrst hstep
  obtain ⟨m, u, rfl, rfl, hx⟩ := step_cases hstep
  have hnorst := mt (head?_getD_block_eq_iff (m := .rst) (by decide)).mp hrst
  exact takeMove_commandsHeld (s := { s with moves := s.moves.tail }) hnorst hp hx

end Sys2Proof.Machine

/-! ## The ticks of the cycle level -/

namespace Sys2Proof.Machine

variable {p : Profile} {inp : CycleIn} {s t : State} {due : Bool}

@[simp] theorem countDivider_encPhase (p : Profile) (s : State) : (countDivider p s).encPhase = s.encPhase := by
  rw [countDivider_eq]

@[simp] theorem countDivider_ie (p : Profile) (s : State) : (countDivider p s).ie = s.ie := by
  rw [countDivider_eq]

@[simp] theorem countDivider_period (p : Profile) (s : State) : (countDivider p s).period = s.period := by
  rw [countDivider_eq]

@[simp] theorem tickWhen_ie (due : Bool) (s : State) : (tickWhen due s).ie = s.ie := by
  cases due <;> simp

@[simp] theorem tickWhen_period (due : Bool) (s : State) : (tickWhen due s).period = s.period := by
  cases due <;> simp

@[simp] theorem tickWhen_dout (due : Bool) (s : State) : (tickWhen due s).dout = s.dout := by
  cases due <;> simp

theorem cycleQuiet_tdiv (p : Profile) (due : Bool) (s : State) : (cycleQuiet p due s).tdiv = s.tdiv := by
  unfold cycleQuiet
  dsimp only
  split <;> simp [encQuiet]

/-- R27, R131: a command leaves the divider as it is or clears it. -/
theorem exec_tdiv_cases {i : Instr} (h : exec i s = .next t) : t.tdiv = s.tdiv ∨ t.tdiv = 0 := by
  by_cases hi : i = .start
  · subst hi
    exact .inr (by rw [exec_next_cases h]; rfl)
  · obtain ⟨-, -, -, -, -, -, -, -, htdiv, -⟩ := commandsWriteOnlyTheirOwn i s t h
    exact .inl (htdiv hi)

/-- R27: after the divider has counted, an idle cycle leaves it or clears it. -/
theorem cycleIdle_tdiv (h : cycleIdle due inp s = .next t) : t.tdiv = s.tdiv ∨ t.tdiv = 0 := by
  rcases cycleIdle_cases h with ⟨_, rfl⟩ | ⟨_, i, u, _, hx, rfl⟩
  · exact .inl (tickWhen_tdiv _ _)
  · simpa using exec_tdiv_cases hx

/-- A cycle with no SEND in progress and no command presented is its tick, where there is one. -/
theorem cycleIdle_waits (hv : inp.cmdValid = false) :
    cycleIdle due inp s = .next (tickWhen due { s with dout := false }) :=
  if_neg (by simp [hv])

theorem cycleTx_tdiv (h : cycleTx p due s = .next t) : t.tdiv = s.tdiv := by
  rcases cycleTx_cases h with ⟨_, b, hb, ⟨_, rfl⟩ | ⟨_, u, hu, rfl⟩⟩ | ⟨_, rfl⟩ | ⟨_, rfl⟩
  · simp
  · simp only [encBit, hb, Host.Outcome.next.injEq] at hu
    simp [← hu]
  · simp [cycleQuiet_tdiv]
  · simp

/-- R27: a cycle counts the divider once, and a START or a reset clears it. -/
theorem cycle_tdiv_cases (h : cycle p inp s = .next t) : t.tdiv = (countDivider p s).tdiv ∨ t.tdiv = 0 := by
  cases hr : inp.rst with
  | true =>
    rw [cycle_rst hr] at h
    exact .inr (by rw [← Host.Outcome.next.inj h]; rfl)
  | false =>
    cases hp : s.encPhase with
    | idle => exact cycleIdle_tdiv (s := (countDivider p s).silent) ((cycle_idle hr hp).symm.trans h)
    | tx => exact .inl (cycleTx_tdiv (s := (countDivider p s).silent) ((cycle_tx hr hp).symm.trans h))
    | quiet =>
      rw [cycle_quiet hr hp] at h
      exact .inl (by rw [← Host.Outcome.next.inj h, cycleQuiet_tdiv]; rfl)

theorem cycle_tdiv_lt (hp : 0 < p.tickCyc) (hs : s.tdiv < p.tickCyc) (h : cycle p inp s = .next t) :
    t.tdiv < p.tickCyc := by
  rcases cycle_tdiv_cases h with he | he <;> rw [he]
  · exact countDivider_lt hp hs
  · exact hp

/-- R131, R136: ticks come, and run the handler at once: no SEND is in progress, and delivery and the Tick Source are
enabled. -/
structure State.TicksFreely (s : State) : Prop where
  idle : s.encPhase = .idle
  gate : s.ie = true
  enabled : s.run = true

/-- `s` at a count of the divider, the line low and nothing answered: what a cycle with no command leaves. -/
def State.atCount (x : Nat) (s : State) : State := { s with tdiv := x, dout := false, rsp := none }

theorem handler_atCount (x : Nat) (s : State) : handler (s.atCount x) = (handler s).atCount x := by
  rcases handler_cases s with ⟨h0, h⟩ | ⟨h0, h⟩ <;> rw [h]
  · exact if_pos h0
  · exact if_neg h0

theorem handler_ticksFreely (h : s.TicksFreely) : (handler s).TicksFreely :=
  ⟨by simp [h.idle], by simp [h.gate], by simp [h.enabled]⟩

theorem iterate_handler_ticksFreely (h : s.TicksFreely) (k : Nat) : (handler^[k] s).TicksFreely := by
  induction k with
  | zero => exact h
  | succ k ih =>
    rw [Function.iterate_succ_apply']
    exact handler_ticksFreely ih

/-- R27, R137: a cycle with no command counts the divider, and the handler runs in the cycle in which it wraps. -/
theorem cycle_atCount (hs : s.TicksFreely) {x : Nat} (hx : x < p.tickCyc)
    (hin : inp.rst = false ∧ inp.cmdValid = false) :
    cycle p inp (s.atCount x) = .next ((handler^[(x + 1) / p.tickCyc] s).atCount ((x + 1) % p.tickCyc)) := by
  obtain ⟨hidle, hie, hrun⟩ := hs
  obtain ⟨hr, hv⟩ := hin
  rw [cycle_idle (s := s.atCount x) hr hidle, cycleIdle_waits hv]
  rcases Nat.lt_or_ge (x + 1) p.tickCyc with hlt | hge
  · have hdue : tickDue p (s.atCount x) = false := by
      simp [tickDue, State.atCount, Nat.not_le.mpr hlt]
    have hcount : countDivider p (s.atCount x) = s.atCount (x + 1) := by
      simp [countDivider, State.atCount, hrun, Nat.not_le.mpr hlt]
    rw [hdue, hcount, Nat.div_eq_of_lt hlt, Nat.mod_eq_of_lt hlt]
    rfl
  · have heq : x + 1 = p.tickCyc := by omega
    have hdue : tickDue p (s.atCount x) = true := by simp [tickDue, State.atCount, hrun, hge]
    have htick : tick (s.atCount 0) = (handler s).atCount 0 := by
      rw [← handler_atCount]
      exact if_pos hie
    rw [hdue, countDivider_of_due hdue, heq, Nat.div_self (by omega), Nat.mod_self]
    exact congrArg _ htick

/-- Wraps counted up to some point, and from the count left there on, are the wraps counted in one go. -/
theorem wraps_add {n : Nat} (hn : 0 < n) (x y : Nat) : (x % n + y) / n + x / n = (x + y) / n := by
  conv_rhs => rw [← Nat.mod_add_div x n, Nat.add_right_comm, Nat.add_mul_div_left _ _ hn]

/-- R246: over `n` cycles with no command the divider runs on from `x`, and the handler runs once for each wrap. -/
theorem runCycles_atCount (p : Profile) (ins : List CycleIn) (hs : s.TicksFreely) {x : Nat} (hx : x < p.tickCyc)
    (hin : ∀ inp ∈ ins, inp.rst = false ∧ inp.cmdValid = false) :
    runCycles p ins (s.atCount x) = some (List.replicate ins.length false,
      (handler^[(x + ins.length) / p.tickCyc] s).atCount ((x + ins.length) % p.tickCyc)) := by
  induction ins generalizing s x with
  | nil => simp [runCycles, Nat.div_eq_of_lt hx, Nat.mod_eq_of_lt hx]
  | cons inp ins ih =>
    have hpos : 0 < p.tickCyc := by omega
    have hnext := ih (iterate_handler_ticksFreely hs ((x + 1) / p.tickCyc)) (Nat.mod_lt (x + 1) hpos)
      fun i hi => hin i (List.mem_cons_of_mem _ hi)
    have hsplit : x + (inp :: ins).length = x + 1 + ins.length := by simp; omega
    rw [← Function.iterate_add_apply, Nat.mod_add_mod, wraps_add hpos] at hnext
    rw [runCycles, cycle_atCount hs hx (hin inp (List.mem_cons_self ..)), hsplit]
    simp only [hnext]
    rfl

/-- R131: START leaves the divider at 0 and a whole period to count, and from then on ticks come. -/
theorem exec_start (hidle : s.encPhase = .idle) (hie : s.ie = true) (hdout : s.dout = false) :
    ∃ u : State, u.TicksFreely ∧ u.count = s.period ∧ exec .start s = .next (u.atCount 0) :=
  ⟨{ s with run := true, count := s.period, pc := s.pc + 1 }, ⟨hidle, hie, rfl⟩, rfl,
    by rw [State.atCount, ← hdout]; rfl⟩

/-- R204, R246: so does the cycle of a START, after the tick that may fall in it. -/
theorem cycle_start (p : Profile) (hidle : s.encPhase = .idle) (hie : s.ie = true) :
    ∃ u : State, u.TicksFreely ∧ u.count = s.period ∧
      cycle p ⟨false, true, 0x31000000⟩ s = .next (u.atCount 0) := by
  have hd : decode 0x31000000 = .command .start := by decide
  obtain ⟨u, hu, hcount, hexec⟩ :=
    exec_start (s := tickWhen (tickDue p s) { (countDivider p s).silent with dout := false })
      (by simp [hidle]) (by simp [hie]) (by simp)
  have hend : endTransmission (u.atCount 0) = u.atCount 0 := if_neg (by simp [State.atCount, hu.idle])
  refine ⟨u, hu, by simpa using hcount, ?_⟩
  rw [cycle_idle rfl hidle, cycleIdle]
  simp only [if_true, hd, hexec, hend]

/-- Settles O55: the divider's range cycle by cycle, and the run after a START. -/
theorem ticksComeEveryTickCyc : Obligations.TicksComeEveryTickCyc := by
  refine ⟨fun p inp s t hp hs h => ?_, fun p s ins hp hidle hie hin => ?_⟩ <;>
    obtain ⟨-, -, -, -, hpos⟩ := Profile.wf_bounds hp
  · have hlt := cycle_tdiv_lt hpos hs h
    exact ⟨hlt, Profile.fits_tdivBits hlt⟩
  · obtain ⟨u, hu, hcount, hstart⟩ := cycle_start p hidle hie
    have hrun := runCycles_atCount p ins hu hpos hin
    rw [Nat.zero_add] at hrun
    have hhandler := Function.Commute.iterate_left (handler_atCount 0) (ins.length / p.tickCyc) u
    exact ⟨_, _, hstart, hcount, hrun, rfl, by rw [hhandler]; rfl, by rw [hhandler]; rfl⟩

end Sys2Proof.Machine

/-! ## What a step, a reset and an evaluation show -/

namespace Sys2Proof.Machine

variable {s t : State}

/-- R39: the block accepts the command its word decodes to. -/
theorem blockStep_accepts {w : Word} {ws : List Word} {i : Instr} (hp : s.encPhase = .idle) (hc : s.cmds = w :: ws)
    (hd : decode w = .command i) : blockStep s = exec i { s with cmds := ws } := by
  rw [blockStep_idle hp, acceptCommand, hc]
  simp only [hd]

/-- Settles O7: the block's move, listed or not, accepts the word presented. -/
theorem stepRunsTheDecodedCommand : Obligations.StepRunsTheDecodedCommand := by
  intro s w ws i hp hc hd
  refine ⟨fun hm => ?_, fun ms hm => ?_⟩
  · rw [step_of_no_moves hm, blockStep_accepts hp hc hd]
  · rw [step_of_move hm, takeMove, blockStep_accepts (s := { s with moves := ms }) hp hc hd]

/-- Settles O47: the reset state, element by element. -/
theorem resetValues : Obligations.ResetValues :=
  ⟨Memory.read_nil, rfl, rfl, rfl, rfl, rfl, rfl, rfl, rfl, rfl, rfl, rfl, rfl, rfl, rfl, rfl, rfl, rfl, rfl, rfl,
    rfl, rfl⟩

/-- R93: the mask of level `k` in the reference table: its eight levels and eight positions, one by one. -/
theorem maskAt_config_lit : ∀ k : BitVec 3, ∀ i < 8, ((maskAt config k).getLsbD i = true ↔ i < k.toNat) := by
  decide

/-- R167: an evaluation that ends in `On` shows the mask of the tune level. -/
theorem indEval_pattern_of_on {c : Config} {sample : Half} (h : (indEval c sample s).istate = .on) :
    (indEval c sample s).indPattern = maskAt c (indEval c sample s).tune := by
  rcases indEval_cases c sample s with ⟨_, he⟩ | ⟨_, he⟩ <;> rw [he] at h ⊢
  · simp at h
  · simp_all

/-- Settles O58: the table, and the table's entry on the port after an evaluation that ends in `On`. -/
theorem patternLightsOnePositionPerLevel : Obligations.PatternLightsOnePositionPerLevel := by
  refine ⟨maskAt_config_lit, fun _ => rfl, fun s t sample h hon i hi => ?_⟩
  have ht : t = (indEval config sample s).complete := exec_next_cases h
  subst ht
  have hpattern := indEval_pattern_of_on hon
  rw [State.indOut, State.complete_indPattern, hpattern]
  exact maskAt_config_lit _ i hi

end Sys2Proof.Machine

end

section
/-! PROOFS of the family `20_memory.md`: a read answers from elements that it leaves alone, so made again it answers the
same (O14). -/

namespace Sys2Proof.Machine

/-- R94: a response is in no register. -/
@[simp] theorem regValue_respond (reg : Nat) (v : Half) (s : State) : regValue reg (s.respond v) = regValue reg s := by
  unfold regValue
  split <;> rfl

/-- R181: RDR of a register that has a value responds with it. -/
theorem exec_rdr_of_value {reg : Byte} {s : State} {v : Half} (hr : registerInRange reg = true)
    (hv : regValue reg.toNat s = some v) : exec (.rdr reg) s = .next (s.respond v) := by
  simp [exec, execRdr, hr, hv]

/-- R111: CBR of a written byte in range responds with it. -/
theorem exec_cbr_of_written {ch : BitVec 2} {idx v : Byte} {s : State} (hr : colourInRange ch idx = true)
    (hv : s.cb.read (colourAddr ch.toNat idx.toNat) = some v) :
    exec (.cbr ch idx) s = .next (s.respond (zextByte v)) := by
  simp [exec, execCbr, hr, hv]

/-- R67: the commands that only read. -/
def ReadsOnly (i : Instr) : Prop := (∃ reg, i = .rdr reg) ∨ (∃ ch idx, i = .cbr ch idx) ∨ i = .tfrd

/-- R67: a read that is accepted only responds, and responds the same whatever was responded before it. -/
theorem exec_read_responds {i : Instr} {s t : State} (hi : ReadsOnly i) (h : exec i s = .next t) :
    ∃ v, t = s.respond v ∧ ∀ w, exec i (s.respond w) = .next ((s.respond w).respond v) := by
  have hc := exec_next_cases h
  rcases hi with ⟨reg, rfl⟩ | ⟨ch, idx, rfl⟩ | rfl
  · obtain ⟨hr, v, hv, ht⟩ := hc
    exact ⟨v, ht, fun w => exec_rdr_of_value hr (by rwa [regValue_respond])⟩
  · obtain ⟨hr, v, hv, ht⟩ := hc
    exact ⟨zextByte v, ht, fun w => exec_cbr_of_written hr hv⟩
  · exact ⟨zextFlag s.tf, hc, fun w => rfl⟩

/-- Settles O14: an accepted read is a response, which the same read made again gives once more. -/
theorem readsHaveNoSideEffect : Obligations.ReadsHaveNoSideEffect := by
  intro i s t hi h
  obtain ⟨v, rfl, hagain⟩ := exec_read_responds hi h
  exact ⟨rfl, hagain v⟩

end Sys2Proof.Machine

end

section
/-! PROOFS of the family `30_encoding.md`: the command words (O1 to O5), operand values, the assembler and the timing
profiles (O44, O45, O52, O59), the off mode's frame (O23), and a SEND cycle by cycle (O54). -/

/-! ## The command words -/

namespace Sys2Proof.Laws

open Sys2Proof.Claims

/-- Settles O2: the family RoundTrip, constructor by constructor. -/
theorem decodeOfEncode : Obligations.DecodeOfEncode
  | .nop => RoundTrip.nop
  | .cbw ch idx val => RoundTrip.cbw ch idx val
  | .cbr ch idx => RoundTrip.cbr ch idx
  | .send base count => RoundTrip.send base count
  | .cfg imm => RoundTrip.cfg imm
  | .start => RoundTrip.start
  | .stop => RoundTrip.stop
  | .tfrd => RoundTrip.tfrd
  | .tfclr => RoundTrip.tfclr
  | .tftac => RoundTrip.tftac
  | .tstep a b => RoundTrip.tstep a b
  | .istep imm => RoundTrip.istep imm
  | .rdr reg => RoundTrip.rdr reg

/-! A format filled with the fields of a word is the word's bits at the fields' places, under the opcode. -/

/-- Format C of a CBW. -/
theorem formatC_operands_cbw (op : Byte) (w : Word) :
    formatC op (operand w 16 2) (operand w 8 8) (operand w 0 8) = (w &&& 0x0003FFFF) ||| formatZ op := by
  apply BitVec.eq_of_getLsbD_eq; intro i hi
  simp only [operand, formatC, formatZ, BitVec.getLsbD_or, BitVec.getLsbD_and, BitVec.getLsbD_append,
    BitVec.getLsbD_extractLsb']
  interval_cases i <;> simp

/-- Format C of a CBR. -/
theorem formatC_operands_cbr (op : Byte) (w : Word) :
    formatC op (operand w 16 2) (operand w 8 8) 0 = (w &&& 0x0003FF00) ||| formatZ op := by
  apply BitVec.eq_of_getLsbD_eq; intro i hi
  simp only [operand, formatC, formatZ, BitVec.getLsbD_or, BitVec.getLsbD_and, BitVec.getLsbD_append,
    BitVec.getLsbD_extractLsb']
  interval_cases i <;> simp

theorem formatS_operands (op : Byte) (w : Word) :
    formatS op (operand w 8 8) (operand w 0 8) = (w &&& 0x0000FFFF) ||| formatZ op := by
  apply BitVec.eq_of_getLsbD_eq; intro i hi
  simp only [operand, formatS, formatZ, BitVec.getLsbD_or, BitVec.getLsbD_and, BitVec.getLsbD_append,
    BitVec.getLsbD_extractLsb']
  interval_cases i <;> simp

theorem formatP_operand (op : Byte) (w : Word) :
    formatP op (operand w 0 16) = (w &&& 0x0000FFFF) ||| formatZ op := by
  apply BitVec.eq_of_getLsbD_eq; intro i hi
  simp only [operand, formatP, formatZ, BitVec.getLsbD_or, BitVec.getLsbD_and, BitVec.getLsbD_append,
    BitVec.getLsbD_extractLsb']
  interval_cases i <;> simp

theorem formatT_operands (op : Byte) (w : Word) :
    formatT op (w.getLsbD 1) (w.getLsbD 0) = (w &&& 0x00000003) ||| formatZ op := by
  apply BitVec.eq_of_getLsbD_eq; intro i hi
  simp only [formatT, formatZ, BitVec.getLsbD_or, BitVec.getLsbD_and, BitVec.getLsbD_append, BitVec.getLsbD_ofBool]
  interval_cases i <;> simp

theorem formatR_operand (op : Byte) (w : Word) :
    formatR op (operand w 0 8) = (w &&& 0x000000FF) ||| formatZ op := by
  apply BitVec.eq_of_getLsbD_eq; intro i hi
  simp only [operand, formatR, formatZ, BitVec.getLsbD_or, BitVec.getLsbD_and, BitVec.getLsbD_append,
    BitVec.getLsbD_extractLsb']
  interval_cases i <;> simp

/-- Format Z has no field. -/
theorem formatZ_no_operand (op : Byte) (w : Word) : formatZ op = (w &&& 0) ||| formatZ op := by simp

/-- R81, R83: the command a row reads from a word has that word's bits outside the row's mask, and the row's own. -/
theorem encode_operandsOf (w : Word) :
    ∀ r ∈ opcodeMap, encode (operandsOf r.op w) = (w &&& ~~~r.mask) ||| r.pattern := by
  simp only [opcodeMap, List.forall_mem_cons]
  exact ⟨formatZ_no_operand 0x00 w, formatC_operands_cbw 0x10 w, formatC_operands_cbr 0x11 w,
    formatS_operands 0x20 w, formatP_operand 0x30 w, formatZ_no_operand 0x31 w, formatZ_no_operand 0x32 w,
    formatZ_no_operand 0x33 w, formatZ_no_operand 0x34 w, formatZ_no_operand 0x35 w, formatT_operands 0x40 w,
    formatP_operand 0x50 w, formatR_operand 0x60 w, by simp⟩

/-- R83, as an equation. -/
theorem row_fits_iff {r : OpRow} {w : Word} : r.fits w = true ↔ w &&& r.mask = r.pattern := by
  simp [OpRow.fits]

/-- Settles O3: the row that fits gives every bit of the word, those inside its mask and those outside. -/
theorem encodeOfDecode : Obligations.EncodeOfDecode := by
  intro w i h
  obtain ⟨r, hr, hfit, rfl⟩ := decode_command h
  rw [encode_operandsOf w r hr, ← row_fits_iff.mp hfit, ← BitVec.and_or_distrib_left, BitVec.or_comm,
    BitVec.or_not_self, BitVec.and_allOnes]

/-- Settles O4: a row that fits is taken, no other fits, and where none does the word is reserved. -/
theorem decoderFindsTheOneRow : Obligations.DecoderFindsTheOneRow := by
  intro w
  refine ⟨fun r hr h => decode_of_fits hr (fits_of_bits h),
    fun r hr q hq h h' => row_unique hr hq (fits_of_bits h) (fits_of_bits h'), fun h => ?_⟩
  exact decode_of_no_fit fun r hr => by simpa [OpRow.fits] using h r hr

/-- R81: the opcode byte of a word. -/
def opcodeOf (w : Word) : Byte := w.extractLsb' 24 8

/-- A word is its opcode byte and its low 24 bits. -/
theorem word_ext {v w : Word} (hop : opcodeOf v = opcodeOf w) (hlow : v &&& 0x00FFFFFF = w &&& 0x00FFFFFF) : v = w := by
  apply BitVec.eq_of_getLsbD_eq; intro i hi
  rcases Nat.lt_or_ge i 24 with h | h
  · have := congrArg (·.getLsbD i) hlow
    interval_cases i <;> simpa using this
  · have := congrArg (·.getLsbD (i - 24)) hop
    simpa [opcodeOf, Nat.add_sub_cancel' h, show i - 24 < 8 by omega] using this

/-- R83: every row's mask covers the opcode, and below it exactly the must-be-zero bits, which its match has at 0. -/
theorem row_shape : ∀ r ∈ opcodeMap,
    opcodeOf r.mask = 0xFF ∧ r.pattern &&& 0x00FFFFFF = 0 ∧
      mustBeZero (opcodeOf r.pattern).toNat = some (r.mask &&& 0x00FFFFFF) := by
  decide

/-- R83, R84: a row fits a word that has its opcode and no must-be-zero bit set. -/
theorem fits_iff_opcode_and_zeros {r : OpRow} (hr : r ∈ opcodeMap) (w : Word) :
    r.fits w = true ↔ opcodeOf w = opcodeOf r.pattern ∧ w &&& (r.mask &&& 0x00FFFFFF) = 0 := by
  obtain ⟨hmask, hlow, -⟩ := row_shape r hr
  have hop : opcodeOf (w &&& r.mask) = opcodeOf w := by
    rw [opcodeOf, BitVec.extractLsb'_and]
    change opcodeOf w &&& opcodeOf r.mask = opcodeOf w
    rw [hmask]
    exact BitVec.and_allOnes
  rw [row_fits_iff, ← BitVec.and_assoc, ← hlow, ← hop]
  exact ⟨fun h => by rw [h]; exact ⟨rfl, rfl⟩, fun ⟨h, h'⟩ => word_ext h h'⟩

/-- R83: an opcode with must-be-zero bits is some row's. -/
theorem row_of_mustBeZero {op : Byte} {z : Word} (h : mustBeZero op.toNat = some z) :
    ∃ r ∈ opcodeMap, opcodeOf r.pattern = op ∧ r.mask &&& 0x00FFFFFF = z := by
  have hrow : ∀ n z, mustBeZero n = some z →
      ∃ r ∈ opcodeMap, (opcodeOf r.pattern).toNat = n ∧ r.mask &&& 0x00FFFFFF = z := by
    intro n z h
    unfold mustBeZero at h
    split at h <;> cases h <;> decide
  obtain ⟨r, hr, hop, hz⟩ := hrow _ z h
  exact ⟨r, hr, BitVec.eq_of_toNat_eq hop, hz⟩

/-- R85: a word is reserved exactly when no row fits it. -/
theorem decode_reserved_iff {w : Word} : decode w = .reservedWord ↔ ¬∃ r ∈ opcodeMap, r.fits w = true := by
  refine ⟨fun h ⟨r, hr, hfit⟩ => ?_, fun h => decode_of_no_fit fun r hr => ?_⟩
  · rw [decode_of_fits hr hfit] at h
    cases h
  · exact Bool.eq_false_iff.mpr fun hfit => h ⟨r, hr, hfit⟩

/-- R83, R84: some row fits exactly when the word's opcode has must-be-zero bits and they are 0. -/
theorem exists_fit_iff {w : Word} :
    (∃ r ∈ opcodeMap, r.fits w = true) ↔ ∃ z, mustBeZero (opcodeOf w).toNat = some z ∧ w &&& z = 0 := by
  constructor
  · rintro ⟨r, hr, hfit⟩
    obtain ⟨hop, hzero⟩ := (fits_iff_opcode_and_zeros hr w).mp hfit
    obtain ⟨-, -, hz⟩ := row_shape r hr
    exact ⟨_, by rw [hop, hz], hzero⟩
  · rintro ⟨z, hz, hzero⟩
    obtain ⟨r, hr, hop, rfl⟩ := row_of_mustBeZero hz
    exact ⟨r, hr, (fits_iff_opcode_and_zeros hr w).mpr ⟨hop.symm, hzero⟩⟩

/-- Settles O5: a row fits exactly where the opcode is a row's and its must-be-zero bits are 0. -/
theorem reservedByOpcodeOrZeroBits : Obligations.ReservedByOpcodeOrZeroBits := by
  intro w
  rw [decode_reserved_iff, exists_fit_iff, opcodeOf]
  cases mustBeZero (w.extractLsb' 24 8).toNat <;> simp

/-- Settles O1: the words, one by one. -/
theorem specWordsDecode : Obligations.SpecWordsDecode := by
  unfold Obligations.SpecWordsDecode
  decide

end Sys2Proof.Laws

/-! ## Operand values, the assembler and the timing profiles -/

namespace Sys2Proof.Machine

open Sys2Proof.Claims

/-- R84: a channel is in range unless it is 3. -/
theorem channel_lt_iff {ch : BitVec 2} : ch.toNat < 3 ↔ ch.toNat ≠ 3 := by
  omega

/-- Settles O45: the check of each command with operands, as numbers. -/
theorem wellFormedMeansInRange : Obligations.WellFormedMeansInRange := by
  intro i
  cases i with
  | cbw ch idx val => exact colourInRange_iff.trans (and_congr_left' channel_lt_iff)
  | cbr ch idx => exact colourInRange_iff.trans (and_congr_left' channel_lt_iff)
  | send base count => exact frameInRange_iff
  | cfg imm => exact periodInRange_iff.trans Nat.one_le_iff_ne_zero
  | rdr reg => exact registerInRange_iff
  | _ => exact iff_of_true rfl trivial

/-- Settles O44: the commands that check an operand, one by one; the others accept every value. -/
theorem operandsOutOfRangeAreRefused : Obligations.OperandsOutOfRangeAreRefused := by
  intro i s h
  cases i with
  | cbw ch idx val => exact if_neg (Bool.eq_false_iff.mp h)
  | cbr ch idx => exact if_neg (Bool.eq_false_iff.mp h)
  | send base count => exact if_neg (Bool.eq_false_iff.mp h)
  | cfg imm => exact if_neg (Bool.eq_false_iff.mp h)
  | rdr reg => exact if_neg (Bool.eq_false_iff.mp h)
  | _ => cases h

/-- Settles O59: the lines assembled, and each expansion by definition. -/
theorem assemblerExamples : Obligations.AssemblerExamples :=
  ⟨by decide, fun _ _ _ _ => rfl, fun _ => rfl, fun _ => rfl, rfl, fun _ => rfl, rfl, rfl⟩

/-- R91: `cyc(t)` is the nearest whole number of cycles, half up. -/
theorem cyclesNearest_nearestHalfUp (f ns : Nat) : nearestHalfUp (cyclesNearest f ns) (ns * f) := by
  unfold nearestHalfUp cyclesNearest
  omega

/-- R91: the quiet period is rounded up. -/
theorem cyclesAtLeast_bounds (f ns : Nat) :
    ns * f ≤ cyclesAtLeast f ns * 1000000000 ∧ cyclesAtLeast f ns * 1000000000 < ns * f + 1000000000 := by
  unfold cyclesAtLeast
  omega

/-- Settles O52: the reference values by computation, and each formula's rounding. -/
theorem profilesFollowTheFormula : Obligations.ProfilesFollowTheFormula := by
  refine ⟨config_wf, if_pos rfl, by decide, by decide, fun c f => ⟨rfl, ?_⟩⟩
  obtain ⟨hquiet, hquiet'⟩ := cyclesAtLeast_bounds f c.quietNs
  exact ⟨cyclesNearest_nearestHalfUp f _, cyclesNearest_nearestHalfUp f _, cyclesNearest_nearestHalfUp f _, hquiet,
    hquiet', Nat.div_mul_le_self _ _, Nat.lt_mul_of_div_lt (Nat.lt_succ_self _) (by decide)⟩

end Sys2Proof.Machine

/-! ## A run with ticks falling anywhere

A tick writes the countdown, the flag, the held tick and the response. States are compared up to these, so that a run
is followed by the block's own moves alone. -/

namespace Sys2Proof.Machine

open Sys2Proof.Claims

variable {s t u v w : State}

/-- `u` is `v` up to what ticks write and to the moves still to come. A tick is held only behind a closed gate (R136):
with the gate open the held tick is `v`'s too. -/
def SameButTicks (v u : State) : Prop :=
  ∃ count tf tpend rsp moves, (v.ie = true → tpend = v.tpend) ∧
    u = { v with count := count, tf := tf, tpend := tpend, rsp := rsp, moves := moves }

theorem SameButTicks.refl (s : State) : SameButTicks s s :=
  ⟨_, _, _, _, _, fun _ => rfl, rfl⟩

section
variable (h : SameButTicks v u)
include h

theorem SameButTicks.cb : u.cb = v.cb := by obtain ⟨_, _, _, _, _, _, rfl⟩ := h; rfl
theorem SameButTicks.encPhase : u.encPhase = v.encPhase := by obtain ⟨_, _, _, _, _, _, rfl⟩ := h; rfl
theorem SameButTicks.encBase : u.encBase = v.encBase := by obtain ⟨_, _, _, _, _, _, rfl⟩ := h; rfl
theorem SameButTicks.encCnt : u.encCnt = v.encCnt := by obtain ⟨_, _, _, _, _, _, rfl⟩ := h; rfl
theorem SameButTicks.encPos : u.encPos = v.encPos := by obtain ⟨_, _, _, _, _, _, rfl⟩ := h; rfl
theorem SameButTicks.line : u.line = v.line := by obtain ⟨_, _, _, _, _, _, rfl⟩ := h; rfl
theorem SameButTicks.pc : u.pc = v.pc := by obtain ⟨_, _, _, _, _, _, rfl⟩ := h; rfl
theorem SameButTicks.cmds : u.cmds = v.cmds := by obtain ⟨_, _, _, _, _, _, rfl⟩ := h; rfl

end

theorem SameButTicks.withMoves (h : SameButTicks v u) (ms : List Move) : SameButTicks v { u with moves := ms } := by
  obtain ⟨count, tf, tpend, rsp, _, hheld, rfl⟩ := h
  exact ⟨count, tf, tpend, rsp, ms, hheld, rfl⟩

theorem SameButTicks.withCmds (h : SameButTicks v u) (ws : List Word) :
    SameButTicks { v with cmds := ws } { u with cmds := ws } := by
  obtain ⟨count, tf, tpend, rsp, ms, hheld, rfl⟩ := h
  exact ⟨count, tf, tpend, rsp, ms, hheld, rfl⟩

theorem SameButTicks.silent (h : SameButTicks v u) : SameButTicks v u.silent := by
  obtain ⟨count, tf, tpend, _, ms, hheld, rfl⟩ := h
  exact ⟨count, tf, tpend, none, ms, hheld, rfl⟩

theorem SameButTicks.tick (h : SameButTicks v u) : SameButTicks v (tick u) := by
  obtain ⟨count, tf, tpend, rsp, ms, hheld, rfl⟩ := h
  refine ⟨_, _, _, rsp, ms, fun hie => ?_, tick_eq _⟩
  rw [Machine.tick, if_pos (by exact hie), handler_tpend]
  exact hheld hie

theorem SameButTicks.tickStep (h : SameButTicks v u) : SameButTicks v (tickStep u) := by
  rcases tickStep_cases u with ⟨_, he⟩ | ⟨_, he⟩ <;> rw [he]
  · exact h.tick.silent
  · exact h.silent

/-! The block's own operations, taken on two states that are the same up to ticks, leave two such states. -/

/-- R115: what the end-of-transmission step writes. -/
theorem encEnd_eq (s : State) :
    encEnd s = { s with
      ie := true, tpend := false, encPhase := .quiet, rsp := none
      count := (encEnd s).count, tf := (encEnd s).tf } := by
  rw [Machine.encEnd, openGate_eq]
  rfl

theorem SameButTicks.encEnd (h : SameButTicks v u) : SameButTicks (encEnd v) (encEnd u) := by
  obtain ⟨count, tf, tpend, rsp, ms, -, rfl⟩ := h
  rw [encEnd_eq v]
  exact ⟨_, _, _, _, ms, fun _ => rfl, encEnd_eq _⟩

theorem SameButTicks.encQuiet (h : SameButTicks v u) : SameButTicks (encQuiet v) (encQuiet u) := by
  obtain ⟨count, tf, tpend, rsp, ms, hheld, rfl⟩ := h
  exact ⟨count, tf, tpend, none, ms, hheld, rfl⟩

/-- R114: the state a bit step leaves. -/
def State.afterBit (b : Bool) (s : State) : State := ({ s with encPos := s.encPos + 1 }.emit (.pulse b)).silent

theorem encBit_of_frameBit {b : Bool} (h : frameBit s.cb s.encBase.toNat s.encPos.toNat = some b) :
    encBit s = .next (s.afterBit b) := by
  simp [encBit, h, State.afterBit]

theorem SameButTicks.afterBit (h : SameButTicks v u) (b : Bool) : SameButTicks (v.afterBit b) (u.afterBit b) := by
  obtain ⟨count, tf, tpend, rsp, ms, hheld, rfl⟩ := h
  exact ⟨count, tf, tpend, none, ms, hheld, rfl⟩

/-! ## What a run of the block's moves leads to -/

/-- A move leaves the moves to come as they are. -/
theorem takeMove_moves {m : Move} (h : takeMove m s = .next t) : t.moves = s.moves := by
  rcases takeMove_cases h with ⟨_, _, hx⟩ | ⟨_, _, hx⟩ | ⟨_, rfl⟩ | ⟨_, rfl⟩
  · rcases acceptCommand_cases hx with ⟨_, rfl⟩ | ⟨w, ws, i, _, _, hi⟩
    · rfl
    · obtain ⟨-, -, -, -, -, -, hmoves, -⟩ := commandsWriteOnlyTheirOwn i _ _ hi
      exact hmoves
  · rcases encoderStep_cases hx with ⟨_, rfl⟩ | ⟨_, _, b, _, rfl⟩ | ⟨_, _, rfl⟩ | ⟨_, _, rfl⟩ | ⟨_, rfl⟩
    case inr.inr.inl => simp [encEnd]
    all_goals rfl
  · rcases tickStep_cases s with ⟨_, he⟩ | ⟨_, he⟩ <;> simp [he]
  · rfl

/-- Runs compose. -/
theorem run_add {k : Nat} (m : Nat) (h : Host.Core.run core k s = .next t) :
    Host.Core.run core (k + m) s = Host.Core.run core m t := by
  induction k generalizing s with
  | zero => cases h; rw [Nat.zero_add]
  | succ k ih =>
    rw [Nat.add_right_comm]
    cases hs : step s with
    | next u => rw [run_succ _ hs] at h ⊢; exact ih h
    | fault r => cases r
    | refused r =>
      have hc : core.step s = .refused r := hs
      simp [Host.Core.run, hc] at h

/-- A run of the moves `ms` leaves the moves `rest`, in a state the same as `w` up to ticks. -/
def RunsTo (w : State) (ms rest : List Move) (u : State) : Prop :=
  ∃ t, Host.Core.run core ms.length u = .next t ∧ t.moves = rest ∧ SameButTicks w t

/-- From a state the same as `v` up to ticks, `n` moves of the block, with ticks anywhere between them and after them,
lead to a state the same as `w` up to ticks. -/
def Leads (n : Nat) (v w : State) : Prop :=
  ∀ (u : State) (ms rest : List Move), SameButTicks v u → u.moves = ms ++ rest → .rst ∉ ms → ms.count .block = n →
    RunsTo w ms rest u

/-- A listed move and then the rest of the run. -/
theorem RunsTo.cons {m : Move} {ms rest : List Move} (hm : s.moves = m :: ms ++ rest)
    (ht : takeMove m { s with moves := ms ++ rest } = .next t) (h : t.moves = ms ++ rest → RunsTo w ms rest t) :
    RunsTo w (m :: ms) rest s := by
  rw [RunsTo, List.length_cons, run_succ _ ((step_of_move hm).trans ht)]
  exact h (takeMove_moves ht)

/-- R136: ticks alone lead nowhere. -/
theorem Leads.refl (v : State) : Leads 0 v v := by
  intro u ms
  induction ms generalizing u with
  | nil => exact fun rest hu hm _ _ => ⟨u, rfl, hm, hu⟩
  | cons m ms ih =>
    intro rest hu hm hrst hcount
    cases m with
    | block => simp at hcount
    | tick =>
      exact .cons hm rfl fun ht =>
        ih _ rest (hu.withMoves _).tickStep ht (by simpa using hrst) (by simpa using hcount)
    | rst => simp at hrst

/-- One move of the block, and the ticks before and after it. -/
theorem Leads.block (h : ∀ u, SameButTicks v u → ∃ t, blockStep u = .next t ∧ SameButTicks w t) : Leads 1 v w := by
  intro u ms
  induction ms generalizing u with
  | nil => intro rest _ _ _ hcount; simp at hcount
  | cons m ms ih =>
    intro rest hu hm hrst hcount
    cases m with
    | block =>
      obtain ⟨t, ht, hw⟩ := h _ (hu.withMoves (ms ++ rest))
      exact .cons hm ht fun hmoves =>
        Leads.refl w t ms rest hw hmoves (by simpa using hrst) (by simpa using hcount)
    | tick =>
      exact .cons hm rfl fun ht =>
        ih _ rest (hu.withMoves _).tickStep ht (by simpa using hrst) (by simpa using hcount)
    | rst => simp at hrst

/-- A list with `a + b` occurrences splits into one with `a` and one with `b`. -/
theorem exists_append_of_count {α : Type} [DecidableEq α] {x : α} (a : Nat) {b : Nat} {l : List α}
    (h : l.count x = a + b) : ∃ l₁ l₂, l = l₁ ++ l₂ ∧ l₁.count x = a ∧ l₂.count x = b := by
  induction l generalizing a with
  | nil => exact ⟨[], [], rfl, by simp at h ⊢; omega, by simp at h ⊢; omega⟩
  | cons y l ih =>
    by_cases hy : y = x
    · subst hy
      cases a with
      | zero => exact ⟨[], y :: l, rfl, rfl, by simpa using h⟩
      | succ a =>
        obtain ⟨l₁, l₂, rfl, h₁, h₂⟩ := ih a (by rw [List.count_cons_self] at h; omega)
        exact ⟨y :: l₁, l₂, rfl, by simp [h₁], h₂⟩
    · obtain ⟨l₁, l₂, rfl, h₁, h₂⟩ := ih a (by rwa [List.count_cons_of_ne hy] at h)
      exact ⟨y :: l₁, l₂, rfl, by simp [hy, h₁], h₂⟩

theorem Leads.trans {m n : Nat} (h : Leads m s v) (h' : Leads n v w) : Leads (m + n) s w := by
  intro u ms rest hu hm hrst hcount
  obtain ⟨ms₁, ms₂, rfl, h₁, h₂⟩ := exists_append_of_count m hcount
  rw [List.mem_append, not_or] at hrst
  obtain ⟨t, ht, hmoves, hv⟩ := h u ms₁ (ms₂ ++ rest) hu (by rw [hm, List.append_assoc]) hrst.1 h₁
  obtain ⟨r, hr, hmoves', hw⟩ := h' t ms₂ rest hv hmoves hrst.2 h₂
  exact ⟨r, by rw [List.length_append, run_add _ ht, hr], hmoves', hw⟩

/-- A stage reached one move of the block after another. -/
theorem Leads.iterate {n : Nat} {f : Nat → State} (h : ∀ k < n, Leads 1 (f k) (f (k + 1))) : Leads n (f 0) (f n) := by
  induction n with
  | zero => exact .refl _
  | succ n ih => exact (ih fun k hk => h k (by omega)).trans (h n n.lt_succ_self)

/-- The whole list of moves. -/
theorem Leads.run (h : Leads (s.moves.count .block) s w) (hrst : .rst ∉ s.moves) :
    ∃ t, Host.Core.run core s.moves.length s = .next t ∧ SameButTicks w t := by
  obtain ⟨t, ht, -, hw⟩ := h s s.moves [] (.refl s) (by simp) hrst rfl
  exact ⟨t, ht, hw⟩

/-- R39: a command presented to an idle block is one move. -/
theorem Leads.accept {i : Instr} {rest : List Word} (hp : v.encPhase = .idle) (hc : v.cmds = encode i :: rest)
    (h : ∀ u, SameButTicks { v with cmds := rest } u → ∃ t, exec i u = .next t ∧ SameButTicks w t) : Leads 1 v w :=
  .block fun u hu => by
    rw [blockStep_accepts (hu.encPhase.trans hp) (hu.cmds.trans hc) (Laws.decodeOfEncode i)]
    exact h _ (hu.withCmds rest)

/-! ## The pulses of a frame, in one list -/

/-- R89: pulse number `p` of a frame, low where its byte is unwritten. -/
def framePulse (m : Memory) (base p : Nat) : LineEvent := .pulse ((frameBit m base p).getD false)

/-- Counting in two digits is counting. -/
theorem flatMap_range_map_range {α : Type} (a b : Nat) (f : Nat → α) :
    (List.range a).flatMap (fun i => (List.range b).map (fun j => f (b * i + j))) = (List.range (b * a)).map f := by
  induction a with
  | zero => rfl
  | succ a ih =>
    rw [List.range_succ, List.flatMap_append, ih, Nat.mul_succ, List.range_add, List.map_append, List.map_map]
    simp [Function.comp_def]

/-- R89, R117: the pulses of a SEND, colour by colour and channel by channel, are those of positions `0` to
`24 * count - 1`. -/
theorem framePulses_eq_map (m : Memory) (base count : Nat) :
    framePulses m base count = (List.range (24 * count)).map (framePulse m base) := by
  have hbyte : ∀ i c, c < 3 → bytePulses ((m.read (3 * (base + i) + c)).getD 0) =
      (List.range 8).map (fun j => framePulse m base (24 * i + (8 * c + j))) := by
    intro i c hc
    refine List.map_congr_left fun j hj => ?_
    obtain ⟨haddr, hbit⟩ := pulse_position (base := base) (i := i) hc (List.mem_range.mp hj)
    rw [framePulse, frameBit, ← Nat.add_assoc, haddr, hbit]
    cases m.read (3 * (base + i) + c) <;> simp
  rw [framePulses, ← flatMap_range_map_range]
  congr 1
  funext i
  rw [colourPulses, ← flatMap_range_map_range 3 8 (fun j => framePulse m base (24 * i + j))]
  exact List.flatMap_congr fun c hc => hbyte i c (List.mem_range.mp hc)

/-- R114, R215: where the colours are written every pulse has its bit. -/
theorem frameBit_of_written {m : Memory} {base count p : Nat} (h : coloursWritten m base count)
    (hp : p < 24 * count) : ∃ b, frameBit m base p = some b ∧ framePulse m base p = .pulse b := by
  have hread : (m.read (pulseAddr base p)).isSome := h (p / 24) (p % 24 / 8) (by omega) (by omega)
  obtain ⟨b, hb⟩ := Option.isSome_iff_exists.mp (by simpa [frameBit] using hread : (frameBit m base p).isSome)
  exact ⟨b, hb, by rw [framePulse, hb]; rfl⟩

/-! ## A SEND, move by move -/

/-- R112, R113, R114: a SEND accepted in `s`, its first `j` pulses on the line. -/
def State.sending (base count : Byte) (j : Nat) (s : State) : State :=
  { s with
    encBase := base, encCnt := count, encPos := BitVec.ofNat 13 j, ie := false, encPhase := .tx, encCyc := 0
    rsp := none, dout := s.dout && j = 0, line := s.line ++ (List.range j).map (framePulse s.cb base.toNat) }

/-- R113: the begin step. -/
theorem exec_send {base count : Byte} (h : base.toNat + count.toNat ≤ 60) (s : State) :
    exec (.send base count) s = .next (s.sending base count 0) := by
  simp [exec, execSend, frameInRange_iff.mpr h, State.sending]

theorem SameButTicks.sending (h : SameButTicks v u) (base count : Byte) :
    SameButTicks (v.sending base count 0) (u.sending base count 0) := by
  obtain ⟨count', tf, tpend, rsp, ms, -, rfl⟩ := h
  exact ⟨count', tf, tpend, none, ms, fun hie => absurd hie (by simp [State.sending]), rfl⟩

/-- R22: the position fits its 13 bits. -/
theorem sending_encPos {base count : Byte} {j : Nat} (hj : j ≤ 24 * count.toNat) (s : State) :
    (s.sending base count j).encPos.toNat = j := by
  have : (s.sending base count j).encPos = BitVec.ofNat 13 j := rfl
  rw [this, BitVec.toNat_ofNat, Nat.mod_eq_of_lt (by omega)]

/-- R114: a bit step puts the next pulse on the line. -/
theorem sending_afterBit {base count : Byte} {j : Nat} {b : Bool} (s : State)
    (hb : framePulse s.cb base.toNat j = .pulse b) :
    (s.sending base count j).afterBit b = s.sending base count (j + 1) := by
  simp [State.afterBit, State.sending, State.emit, State.silent, List.range_succ, hb, BitVec.ofNat_add]

/-- R112: a SEND that has been completed in `s`. -/
def State.sent (base count : Byte) (s : State) : State :=
  encQuiet (encEnd (s.sending base count (24 * count.toNat)))

@[simp] theorem State.sent_cb (base count : Byte) (s : State) : (s.sent base count).cb = s.cb := by
  simp [State.sent, encQuiet, encEnd, State.sending]

@[simp] theorem State.sent_encPhase (base count : Byte) (s : State) : (s.sent base count).encPhase = .idle := rfl

@[simp] theorem State.sent_cmds (base count : Byte) (s : State) : (s.sent base count).cmds = s.cmds := by
  simp [State.sent, encQuiet, encEnd, State.sending]

@[simp] theorem State.sent_pc (base count : Byte) (s : State) : (s.sent base count).pc = s.pc + 1 := by
  simp [State.sent, encQuiet, encEnd, State.sending]

/-- R118: the frame's pulses and one `Quiet`. -/
@[simp] theorem State.sent_line (base count : Byte) (s : State) :
    (s.sent base count).line = s.line ++ framePulses s.cb base.toNat count.toNat ++ [.quiet] := by
  simp [State.sent, encQuiet, encEnd, State.sending, framePulses_eq_map]

variable {base count : Byte}

/-- R114: the bit steps of a transmission. -/
theorem leads_bits (h : coloursWritten s.cb base.toNat count.toNat) :
    Leads (24 * count.toNat) (s.sending base count 0) (s.sending base count (24 * count.toNat)) := by
  refine .iterate (f := s.sending base count) fun j hj => .block fun u hu => ?_
  obtain ⟨b, hb, hpulse⟩ := frameBit_of_written h hj
  rw [← sending_afterBit s hpulse]
  have hphase : u.encPhase = .tx := hu.encPhase
  have hpos : u.encPos.toNat = j := by rw [hu.encPos, sending_encPos hj.le]
  have hcnt : u.encCnt = count := hu.encCnt
  have hbit : frameBit u.cb u.encBase.toNat u.encPos.toNat = some b := by rw [hpos, hu.cb, hu.encBase]; exact hb
  refine ⟨_, ?_, hu.afterBit b⟩
  rw [blockStep_busy (by simp [hphase]), encoderStep_of_bit hphase (by rwa [hpos, hcnt]), encBit_of_frameBit hbit]

/-- R115: the end of the transmission. -/
theorem leads_encEnd (hp : v.encPhase = .tx) (hpos : v.encPos.toNat = 24 * v.encCnt.toNat) : Leads 1 v (encEnd v) :=
  .block fun u hu => by
    rw [← hu.encPhase] at hp
    rw [← hu.encPos, ← hu.encCnt] at hpos
    exact ⟨_, by simp [blockStep_busy, encoderStep, hp, hpos], hu.encEnd⟩

/-- R116: the quiet step. -/
theorem leads_encQuiet (hp : v.encPhase = .quiet) : Leads 1 v (encQuiet v) :=
  .block fun u hu => by
    rw [← hu.encPhase] at hp
    exact ⟨_, by simp [blockStep_busy, encoderStep, hp], hu.encQuiet⟩

/-- R112: a SEND of written colours is its begin step, its bits, its end of transmission and its quiet step. -/
theorem leads_send {rest : List Word} (hp : s.encPhase = .idle) (hc : s.cmds = encode (.send base count) :: rest)
    (hframe : base.toNat + count.toNat ≤ 60) (h : coloursWritten s.cb base.toNat count.toNat) :
    Leads (24 * count.toNat + 3) s ({ s with cmds := rest }.sent base count) := by
  have hbegin : Leads 1 s ({ s with cmds := rest }.sending base count 0) :=
    .accept hp hc fun u hu => ⟨_, exec_send hframe u, hu.sending base count⟩
  have hend := leads_encEnd (v := { s with cmds := rest }.sending base count (24 * count.toNat)) rfl
    (sending_encPos le_rfl _)
  have hrun := ((hbegin.trans (leads_bits h)).trans hend).trans (leads_encQuiet rfl)
  rwa [show 1 + 24 * count.toNat + 1 + 1 = 24 * count.toNat + 3 by omega] at hrun

/-! ## The off mode's frame -/

/-- The first `n` bytes of the buffer at 0. -/
def Memory.darkened (m : Memory) : Nat → Memory
  | 0 => m
  | n + 1 => (Memory.darkened m n).write n 0

theorem Memory.read_darkened (m : Memory) (n a : Nat) :
    (m.darkened n).read a = if a < n then some 0 else m.read a := by
  induction n with
  | zero => rfl
  | succ n ih =>
    rw [Memory.darkened]
    rcases eq_or_ne a n with rfl | hne
    · simp
    · rw [Memory.read_write_other _ _ hne, ih]
      congr 1
      simp only [eq_iff_iff]
      omega

/-- R194: the CBW that darkens byte `k` of the buffer. -/
def darkenByte (k : Nat) : Instr := .cbw (BitVec.ofNat 2 (k % 3)) (BitVec.ofNat 8 (k / 3)) 0

/-- R87: ALLOFF darkens the bytes of its colours in their order in the buffer. -/
theorem allOff_expand (n : Byte) : (Pseudo.allOff n).expand = (List.range (3 * n.toNat)).map darkenByte := by
  rw [← flatMap_range_map_range]
  refine List.flatMap_congr fun i _ => ?_
  have hbyte : ∀ c < 3, darkenByte (3 * i + c) = .cbw (BitVec.ofNat 2 c) (BitVec.ofNat 8 i) 0 := by
    intro c hc
    rw [darkenByte, Nat.mul_add_mod, Nat.mod_eq_of_lt hc, Nat.mul_add_div (by decide), Nat.div_eq_of_lt hc,
      Nat.add_zero]
  have hzero := hbyte 0
  simp_all [List.range_succ, writeColour]

theorem exec_darkenByte {k : Nat} (hk : k < 180) (s : State) :
    exec (darkenByte k) s = .next { s with cb := s.cb.write k 0 }.complete := by
  have hch : (BitVec.ofNat 2 (k % 3)).toNat = k % 3 := by rw [BitVec.toNat_ofNat]; omega
  have hidx : (BitVec.ofNat 8 (k / 3)).toNat = k / 3 := by rw [BitVec.toNat_ofNat]; omega
  have haddr : colourAddr (k % 3) (k / 3) = k := Nat.div_add_mod k 3
  have hrange : colourInRange (BitVec.ofNat 2 (k % 3)) (BitVec.ofNat 8 (k / 3)) = true :=
    colourInRange_iff.mpr (by omega)
  simp only [darkenByte, exec, execCbw, hrange, if_true, hch, hidx, haddr]

/-- R194: the off mode under way in `s`: of `n` bytes the first `k` are dark, and the words of the others and `rest`
are still to come. -/
def State.darkening (n : Nat) (rest : List Word) (k : Nat) (s : State) : State :=
  { s with
    cb := s.cb.darkened k, cmds := (List.range' k (n - k)).map (encode ∘ darkenByte) ++ rest, pc := s.pc + k }

theorem leads_darkening {n : Nat} (hn : n ≤ 180) (rest : List Word) (hp : s.encPhase = .idle) :
    Leads n (s.darkening n rest 0) (s.darkening n rest n) := by
  refine .iterate (f := s.darkening n rest) fun k hk => ?_
  have hwords : (s.darkening n rest k).cmds = encode (darkenByte k) :: (s.darkening n rest (k + 1)).cmds := by
    rw [State.darkening, State.darkening, show n - k = n - (k + 1) + 1 by omega, List.range'_succ]
    rfl
  refine .accept hp hwords fun u hu => ⟨_, exec_darkenByte (by omega) u, ?_⟩
  obtain ⟨count, tf, tpend, rsp, ms, hheld, rfl⟩ := hu
  exact ⟨count, tf, tpend, none, ms, hheld, rfl⟩

/-- R117: a frame of dark colours is dark. -/
theorem framePulses_darkened (m : Memory) (n : Nat) :
    framePulses (m.darkened (3 * n)) 0 n = List.replicate (24 * n) (.pulse false) := by
  rw [framePulses_eq_map, List.eq_replicate_iff]
  refine ⟨by simp, fun e he => ?_⟩
  obtain ⟨p, hp, rfl⟩ := List.mem_map.mp he
  have haddr : pulseAddr 0 p < 3 * n := by
    have := List.mem_range.mp hp
    unfold pulseAddr colourAddr
    omega
  simp [framePulse, frameBit, Memory.read_darkened, haddr]

/-- Settles O23: ALLOFF's writes one by one, and then a SEND of dark colours. -/
theorem allOffFrameIsDark : Obligations.AllOffFrameIsDark := by
  intro s n hn hp hc hrst hcount
  have hwritten : coloursWritten (s.cb.darkened (3 * n.toNat)) (0 : Byte).toNat n.toNat := by
    intro i ch hi hch
    rw [Memory.read_darkened, if_pos (by simp; omega)]
    rfl
  have hstart : s.darkening (3 * n.toNat) [encode (.send 0 n)] 0 = s := by
    have hwords : (Pseudo.allOff n).expand.map encode ++ [encode (.send 0 n)] = s.cmds := by
      rw [hc, List.map_append]
      rfl
    rw [State.darkening, Nat.sub_zero, ← List.range_eq_range', ← List.map_map, ← allOff_expand, hwords]
    rfl
  have hoff := leads_darkening (s := s) (n := 3 * n.toNat) (by omega) [encode (.send 0 n)] hp
  have hsend := leads_send (s := s.darkening (3 * n.toNat) [encode (.send 0 n)] (3 * n.toNat)) (base := 0) (count := n)
    (rest := []) hp (by simp [State.darkening]) (by simpa using hn) hwritten
  have hrun := hoff.trans hsend
  rw [hstart, ← Nat.add_assoc, ← hcount] at hrun
  obtain ⟨t, ht, hsame⟩ := hrun.run hrst
  refine ⟨t, ht, ?_, ?_, ?_, ?_, fun a => ?_⟩
  · rw [hsame.line, State.sent_line]
    exact congrArg (s.line ++ · ++ [.quiet]) (framePulses_darkened s.cb n.toNat)
  · rw [hsame.pc, State.sent_pc]
    rfl
  · rw [hsame.cmds, State.sent_cmds]
  · rw [hsame.encPhase, State.sent_encPhase]
  · rw [hsame.cb, State.sent_cb]
    exact Memory.read_darkened _ _ _

end Sys2Proof.Machine

/-! ## A SEND, cycle by cycle

At the cycle level two states are compared up to the divider and the level inside a slot too. -/

namespace Sys2Proof.Machine

open Sys2Proof.Claims

variable {s t u v w x : State} {p : Profile} {due : Bool}

/-- `u` is `v` up to what ticks write, the divider and the level of the line. -/
def SameButClock (v u : State) : Prop := ∃ tdiv dout, SameButTicks { v with tdiv := tdiv, dout := dout } u

theorem SameButClock.refl (s : State) : SameButClock s s := ⟨_, _, .refl s⟩

section
variable (h : SameButClock v u)
include h

theorem SameButClock.cb : u.cb = v.cb := by obtain ⟨_, _, h⟩ := h; exact h.cb
theorem SameButClock.encPhase : u.encPhase = v.encPhase := by obtain ⟨_, _, h⟩ := h; exact h.encPhase
theorem SameButClock.encBase : u.encBase = v.encBase := by obtain ⟨_, _, h⟩ := h; exact h.encBase
theorem SameButClock.encCnt : u.encCnt = v.encCnt := by obtain ⟨_, _, h⟩ := h; exact h.encCnt
theorem SameButClock.encPos : u.encPos = v.encPos := by obtain ⟨_, _, h⟩ := h; exact h.encPos
theorem SameButClock.encCyc : u.encCyc = v.encCyc := by obtain ⟨_, _, _, _, _, _, _, _, rfl⟩ := h; rfl
theorem SameButClock.line : u.line = v.line := by obtain ⟨_, _, h⟩ := h; exact h.line
theorem SameButClock.pc : u.pc = v.pc := by obtain ⟨_, _, h⟩ := h; exact h.pc

/-- R27: the divider counts, and an old response goes. -/
theorem SameButClock.countDivider (p : Profile) : SameButClock v (countDivider p u).silent := by
  rw [countDivider_eq]
  generalize (Machine.countDivider p u).tdiv = tdiv
  obtain ⟨_, dout, count, tf, tpend, rsp, ms, hheld, rfl⟩ := h
  exact ⟨tdiv, dout, count, tf, tpend, none, ms, hheld, rfl⟩

theorem SameButClock.tickWhen (due : Bool) : SameButClock v (tickWhen due u) := by
  obtain ⟨tdiv, dout, h⟩ := h
  cases due with
  | false => exact ⟨tdiv, dout, h⟩
  | true => exact ⟨tdiv, dout, h.tick⟩

theorem SameButClock.withLevel (level : Bool) : SameButClock v { u with dout := level } := by
  obtain ⟨tdiv, _, count, tf, tpend, rsp, ms, hheld, rfl⟩ := h
  exact ⟨tdiv, level, count, tf, tpend, rsp, ms, hheld, rfl⟩

theorem SameButClock.withCyc (n : Nat) : SameButClock { v with encCyc := n } { u with encCyc := n } := by
  obtain ⟨tdiv, dout, count, tf, tpend, rsp, ms, hheld, rfl⟩ := h
  exact ⟨tdiv, dout, count, tf, tpend, rsp, ms, hheld, rfl⟩

theorem SameButClock.sending (base count : Byte) :
    SameButClock (v.sending base count 0) (u.sending base count 0) := by
  obtain ⟨tdiv, dout, h⟩ := h
  exact ⟨tdiv, _, h.sending base count⟩

theorem SameButClock.afterBit (b : Bool) : SameButClock (v.afterBit b) (u.afterBit b) := by
  obtain ⟨tdiv, dout, h⟩ := h
  exact ⟨tdiv, _, h.afterBit b⟩

theorem SameButClock.encEnd : SameButClock (encEnd v) (encEnd u) := by
  obtain ⟨tdiv, dout, h⟩ := h
  have hend := h.encEnd
  rw [encEnd_eq v]
  rw [encEnd_eq { v with tdiv := tdiv, dout := dout }] at hend
  obtain ⟨count, tf, tpend, rsp, ms, hheld, he⟩ := hend
  exact ⟨tdiv, dout, count, tf, tpend, rsp, ms, hheld, he⟩

theorem SameButClock.encQuiet : SameButClock (encQuiet v) (encQuiet u) := by
  obtain ⟨tdiv, dout, h⟩ := h
  exact ⟨tdiv, _, h.encQuiet⟩

theorem SameButClock.endTransmission : SameButClock (endTransmission v) (endTransmission u) := by
  rw [Machine.endTransmission, Machine.endTransmission, h.encPhase, h.encPos, h.encCnt]
  split
  · exact h.encEnd.withCyc 0
  · exact h

end

/-! ## What a run of cycles drives -/

/-- One cycle, whatever the ports carry and whether or not a tick falls in it, from a busy state the same as `v` up to
the clock, puts `level` on the line and leads to a state the same as `w`. -/
def DrivesOne (p : Profile) (level : Bool) (v w : State) : Prop :=
  v.encPhase ≠ .idle ∧ ∀ (u : State) (inp : CycleIn), SameButClock v u → inp.rst = false →
    ∃ t, cycle p inp u = .next t ∧ t.dout = level ∧ SameButClock w t

/-- Cycles that put `levels` on the line, one after another. -/
inductive Drives (p : Profile) : List Bool → State → State → Prop where
  | refl (v : State) : Drives p [] v v
  | cons {level : Bool} {levels : List Bool} {v w x : State} :
      DrivesOne p level v w → Drives p levels w x → Drives p (level :: levels) v x

theorem DrivesOne.drives {level : Bool} (h : DrivesOne p level v w) : Drives p [level] v w :=
  .cons h (.refl w)

theorem Drives.trans {levels levels' : List Bool} (h : Drives p levels v w) (h' : Drives p levels' w x) :
    Drives p (levels ++ levels') v x := by
  induction h with
  | refl v => exact h'
  | cons hone _ ih => exact .cons hone (ih h')

theorem Drives.iterate {n : Nat} {levels : Nat → List Bool} {f : Nat → State}
    (h : ∀ k < n, Drives p (levels k) (f k) (f (k + 1))) : Drives p ((List.range n).flatMap levels) (f 0) (f n) := by
  induction n with
  | zero => exact .refl _
  | succ n ih =>
    rw [List.range_succ, List.flatMap_append, List.flatMap_singleton]
    exact (ih fun k hk => h k (by omega)).trans (h n n.lt_succ_self)

theorem Drives.iterateOne {n : Nat} {level : Nat → Bool} {f : Nat → State}
    (h : ∀ k < n, DrivesOne p (level k) (f k) (f (k + 1))) : Drives p ((List.range n).map level) (f 0) (f n) := by
  rw [List.map_eq_flatMap]
  exact .iterate fun k hk => (h k hk).drives

theorem runCycles_cons {inp : CycleIn} {ins : List CycleIn} {levels : List Bool} (h : cycle p inp s = .next t)
    (hrest : runCycles p ins t = some (levels, u)) : runCycles p (inp :: ins) s = some (t.dout :: levels, u) := by
  simp only [runCycles, h, hrest, Option.map_some]

/-- R39, R95: a run over the levels driven, at each of whose cycles the block is busy. -/
theorem Drives.run {levels : List Bool} (h : Drives p levels v w) (hu : SameButClock v u) {ins : List CycleIn}
    (hrst : ∀ inp ∈ ins, inp.rst = false) (hlength : ins.length = levels.length) :
    ∃ t, runCycles p ins u = some (levels, t) ∧ SameButClock w t ∧
      ∀ k < ins.length, ∃ l r, runCycles p (ins.take k) u = some (l, r) ∧ r.cmdReady = false := by
  induction h generalizing u ins with
  | refl v =>
    obtain rfl := List.length_eq_zero_iff.mp hlength
    exact ⟨u, rfl, hu, fun k hk => absurd hk (Nat.not_lt_zero k)⟩
  | cons hone _ ih =>
    obtain ⟨hbusy, hcycle⟩ := hone
    cases ins with
    | nil => cases hlength
    | cons inp ins =>
      rw [List.forall_mem_cons] at hrst
      obtain ⟨u', hu', hlevel, hw⟩ := hcycle u inp hu hrst.1
      obtain ⟨t, ht, hx, hready⟩ := ih hw hrst.2 (Nat.succ.inj hlength)
      refine ⟨t, hlevel ▸ runCycles_cons hu' ht, hx, fun k hk => ?_⟩
      cases k with
      | zero => exact ⟨[], u, rfl, by simpa [State.cmdReady, hu.encPhase] using hbusy⟩
      | succ k =>
        obtain ⟨l, r, hr, hnot⟩ := hready k (Nat.lt_of_succ_lt_succ hk)
        exact ⟨_, r, runCycles_cons hu' hr, hnot⟩

/-! ## The cycles of a slot and of the quiet period -/

/-- R88: a cycle within a slot. -/
theorem cycleTx_within {b : Bool} (hlt : s.encPos.toNat < 24 * s.encCnt.toNat)
    (hb : frameBit s.cb s.encBase.toNat s.encPos.toNat = some b) (hcyc : s.encCyc + 1 < p.slotCyc) :
    cycleTx p due s =
      .next (tickWhen due { s with dout := s.encCyc < highCycles p b, encCyc := s.encCyc + 1 }) := by
  simp [cycleTx, hlt, hb, hcyc]

/-- R88, R114: the last cycle of a slot. -/
theorem cycleTx_slotEnd {b : Bool} (hlt : s.encPos.toNat < 24 * s.encCnt.toNat)
    (hb : frameBit s.cb s.encBase.toNat s.encPos.toNat = some b) (hcyc : p.slotCyc ≤ s.encCyc + 1) :
    cycleTx p due s = .next (tickWhen due (endTransmission
      { { s with encCyc := 0 }.afterBit b with dout := s.encCyc < highCycles p b })) := by
  have hbit : encBit { s with encCyc := 0 } = .next ({ s with encCyc := 0 }.afterBit b) := encBit_of_frameBit hb
  simp [cycleTx, hlt, hb, Nat.not_lt.mpr hcyc, hbit]

/-- R90: a cycle within the quiet period. -/
theorem cycleQuiet_within {k : Nat} (hk : s.encCyc = k) (h : k + 1 < p.quietCyc) :
    cycleQuiet p due s = { tickWhen due { s with dout := false } with encCyc := k + 1 } := by
  subst hk
  exact if_pos h

/-- R90, R116: the last cycle of the quiet period. -/
theorem cycleQuiet_last (h : p.quietCyc ≤ s.encCyc + 1) :
    cycleQuiet p due s = { encQuiet (tickWhen due { s with dout := false }) with encCyc := 0 } :=
  if_neg (Nat.not_lt.mpr h)

@[simp] theorem endTransmission_dout (s : State) : (endTransmission s).dout = s.dout := by
  rcases endTransmission_cases s with ⟨_, _, h⟩ | ⟨_, h⟩ <;> rw [h]
  simp [encEnd]

/-- R88: the waveform of a pulse as the levels of its slot's cycles. -/
theorem waveform_pulse {b : Bool} (h : highCycles p b ≤ p.slotCyc) :
    waveform p (.pulse b) = (List.range p.slotCyc).map (fun k => decide (k < highCycles p b)) := by
  obtain ⟨low, hlow⟩ := Nat.exists_eq_add_of_le h
  rw [waveform, hlow, Nat.add_sub_cancel_left, List.range_add, List.map_append, List.map_map]
  congr 1
  · refine (List.eq_replicate_iff.mpr ⟨by simp, fun level hl => ?_⟩).symm
    obtain ⟨k, hk, rfl⟩ := List.mem_map.mp hl
    exact decide_eq_true (List.mem_range.mp hk)
  · refine (List.eq_replicate_iff.mpr ⟨by simp, fun level hl => ?_⟩).symm
    obtain ⟨k, -, rfl⟩ := List.mem_map.mp hl
    exact decide_eq_false (Nat.not_lt.mpr (Nat.le_add_right _ _))

theorem highCycles_lt_slotCyc (hp : p.wf = true) (b : Bool) : highCycles p b < p.slotCyc := by
  obtain ⟨-, hlt, hslot, -⟩ := Profile.wf_bounds hp
  cases b <;> simp only [highCycles] <;> simp <;> omega

variable {base count : Byte}

/-- R114: in a slot of a SEND, the bit that the slot carries. -/
theorem SameButClock.slotBit {j k : Nat} {b : Bool} (hu : SameButClock { s.sending base count j with encCyc := k } u)
    (hj : j < 24 * count.toNat) (hb : frameBit s.cb base.toNat j = some b) :
    u.encPos.toNat < 24 * u.encCnt.toNat ∧ frameBit u.cb u.encBase.toNat u.encPos.toNat = some b := by
  have hpos : u.encPos.toNat = j := by rw [hu.encPos]; exact sending_encPos (base := base) hj.le s
  rw [hpos, hu.encCnt, hu.cb, hu.encBase]
  exact ⟨hj, hb⟩

/-- R88, R114: the cycles of one slot, after which the transmission ends where it is due (R115, R244). -/
theorem drives_slot (hp : p.wf = true) {j : Nat} (hj : j < 24 * count.toNat)
    (hwritten : coloursWritten s.cb base.toNat count.toNat) :
    Drives p (waveform p (framePulse s.cb base.toNat j)) (s.sending base count j)
      (endTransmission (s.sending base count (j + 1))) := by
  obtain ⟨b, hb, hpulse⟩ := frameBit_of_written hwritten hj
  have hhigh := highCycles_lt_slotCyc hp b
  obtain ⟨last, hlast⟩ : ∃ last, p.slotCyc = last + 1 := Nat.exists_eq_add_one.mpr (by omega)
  rw [hpulse, waveform_pulse hhigh.le, hlast, List.range_succ, List.map_append]
  refine Drives.trans
    (Drives.iterateOne (f := fun k => { s.sending base count j with encCyc := k }) fun k hk => ?_) (DrivesOne.drives ?_)
  · refine ⟨by simp [State.sending], fun u inp hu hrst => ?_⟩
    have hcounted := hu.countDivider p
    obtain ⟨hlt, hbit⟩ := hcounted.slotBit hj hb
    have hcyc : (countDivider p u).silent.encCyc = k := hcounted.encCyc
    rw [cycle_tx hrst hu.encPhase, cycleTx_within hlt hbit (by omega), hcyc]
    exact ⟨_, rfl, by simp, ((hcounted.withCyc (k + 1)).withLevel _).tickWhen _⟩
  · refine ⟨by simp [State.sending], fun u inp hu hrst => ?_⟩
    have hcounted := hu.countDivider p
    obtain ⟨hlt, hbit⟩ := hcounted.slotBit hj hb
    have hcyc : (countDivider p u).silent.encCyc = last := hcounted.encCyc
    rw [cycle_tx hrst hu.encPhase, cycleTx_slotEnd hlt hbit (by omega), hcyc, ← sending_afterBit s hpulse]
    exact ⟨_, rfl, by simp, ((((hcounted.withCyc 0).afterBit b).withLevel _).endTransmission).tickWhen _⟩

/-- R90, R116: the cycles of the quiet period. -/
theorem drives_quiet (hp : p.wf = true) (hquiet : v.encPhase = .quiet) :
    Drives p (waveform p .quiet) { v with encCyc := 0 } { encQuiet v with encCyc := 0 } := by
  obtain ⟨-, -, -, hpos, -⟩ := Profile.wf_bounds hp
  obtain ⟨last, hlast⟩ : ∃ last, p.quietCyc = last + 1 := Nat.exists_eq_add_one.mpr hpos
  have hlevels : waveform p .quiet = (List.range last).map (fun _ => false) ++ [false] := by
    simp [waveform, hlast, List.replicate_succ']
  rw [hlevels]
  refine Drives.trans (Drives.iterateOne (f := fun k => { v with encCyc := k }) fun k hk => ?_) (DrivesOne.drives ?_)
  · refine ⟨by simp [hquiet], fun u inp hu hrst => ?_⟩
    have hcounted := hu.countDivider p
    have hlow := (hcounted.withLevel false).tickWhen (tickDue p u)
    rw [cycle_quiet hrst (hu.encPhase.trans hquiet), cycleQuiet_within (k := k) hcounted.encCyc (by omega)]
    exact ⟨_, rfl, by simp, hlow.withCyc (k + 1)⟩
  · refine ⟨by simp [hquiet], fun u inp hu hrst => ?_⟩
    have hcounted := hu.countDivider p
    have hlow := (hcounted.withLevel false).tickWhen (tickDue p u)
    have hcyc : (countDivider p u).silent.encCyc = last := hcounted.encCyc
    rw [cycle_quiet hrst (hu.encPhase.trans hquiet), cycleQuiet_last (by omega)]
    exact ⟨_, rfl, rfl, hlow.encQuiet.withCyc 0⟩

/-! ## The whole SEND -/

theorem endTransmission_of_end (hp : s.encPhase = .tx) (hpos : s.encPos.toNat = 24 * s.encCnt.toNat) :
    endTransmission s = { encEnd s with encCyc := 0 } :=
  if_pos ⟨hp, hpos⟩

/-- R115: the transmission does not end before its last slot is over. -/
theorem endTransmission_sending {j : Nat} (hj : j < 24 * count.toNat) (s : State) :
    endTransmission (s.sending base count j) = s.sending base count j := by
  refine if_neg fun h => ?_
  have hpos : (s.sending base count j).encPos.toNat = 24 * count.toNat := h.2
  rw [sending_encPos hj.le] at hpos
  omega

/-- R244: the cycle that accepts a SEND, which is the first of its quiet period where it has no colour. -/
theorem cycle_send (p : Profile) (hp : s.encPhase = .idle) (hframe : base.toNat + count.toNat ≤ 60) :
    ∃ u, cycle p ⟨false, true, encode (.send base count)⟩ s = .next u ∧
      SameButClock (endTransmission (s.sending base count 0)) u := by
  have hbegin := ((((SameButClock.refl s).countDivider p).withLevel false).tickWhen (tickDue p s)).sending base count
  refine ⟨_, ?_, hbegin.endTransmission⟩
  rw [cycle_idle rfl hp, cycleIdle]
  simp only [if_true, Laws.decodeOfEncode _, exec_send hframe]

/-- R88 to R90: the levels a SEND drives, slots without a gap, and the state it leaves. -/
theorem drives_send (hp : p.wf = true) (hwritten : coloursWritten s.cb base.toNat count.toNat) :
    Drives p ((framePulses s.cb base.toNat count.toNat ++ [LineEvent.quiet]).flatMap (waveform p))
      (endTransmission (s.sending base count 0)) { s.sent base count with encCyc := 0 } := by
  have hslots := Drives.iterate (p := p) (f := fun j => endTransmission (s.sending base count j))
    (levels := fun j => waveform p (framePulse s.cb base.toNat j)) (n := 24 * count.toNat) fun j hj => by
      rw [endTransmission_sending hj]
      exact drives_slot hp hj hwritten
  have hquiet := drives_quiet (v := encEnd (s.sending base count (24 * count.toNat))) hp rfl
  have hend := endTransmission_of_end (s := s.sending base count (24 * count.toNat)) rfl (sending_encPos le_rfl s)
  rw [← hend] at hquiet
  rw [framePulses_eq_map, List.flatMap_append, List.flatMap_map, List.flatMap_singleton]
  exact hslots.trans hquiet

/-- R245: a SEND takes its slots and its quiet period. -/
theorem length_waveform_frame (hp : p.wf = true) (m : Memory) (base count : Nat) :
    ((framePulses m base count ++ [LineEvent.quiet]).flatMap (waveform p)).length =
      24 * count * p.slotCyc + p.quietCyc := by
  have hslot : ∀ j, (waveform p (framePulse m base j)).length = p.slotCyc := fun j => by
    rw [framePulse, waveform_pulse (highCycles_lt_slotCyc hp _).le, List.length_map, List.length_range]
  rw [framePulses_eq_map, List.flatMap_append, List.flatMap_map, List.flatMap_singleton, List.length_append,
    List.length_flatMap]
  simp only [hslot, List.map_const', List.length_range, List.sum_replicate, smul_eq_mul]
  rw [waveform, List.length_replicate]

/-- Settles O54: the accepting cycle, and the levels the SEND drives from there on. -/
theorem sendDrivesItsWaveform : Obligations.SendDrivesItsWaveform := by
  intro p s base count ins hp hidle hframe hwritten hrst hlength
  obtain ⟨s0, hs0, hsame⟩ := cycle_send p hidle hframe
  rw [← length_waveform_frame hp s.cb base.toNat] at hlength
  obtain ⟨t, hrun, ht, hbusy⟩ := (drives_send hp hwritten).run hsame hrst hlength
  refine ⟨s0, t, hs0, hrun, ?_, ?_, ?_, hbusy⟩
  · rw [ht.line]
    exact State.sent_line base count s
  · rw [ht.pc]
    exact State.sent_pc base count s
  · simp [State.cmdReady, ht.encPhase]

end Sys2Proof.Machine

end

section
/-! PROOFS of the family `40_encoder.md`: the colour buffer commands (O15, O16), a SEND step by step (O17 to O20), the
closed gate (O21), the whole SEND (O22), and the slots of its pulses (O51). -/

/-! ## The colour buffer -/

namespace Sys2Proof.Machine

variable {s t : State}

/-- R84: the channels and indices that a colour buffer command does not accept. -/
theorem colourInRange_eq_false {ch : BitVec 2} {idx : Byte} (h : ch.toNat = 3 ∨ 60 ≤ idx.toNat) :
    colourInRange ch idx = false := by
  rw [Bool.eq_false_iff, Ne, colourInRange_iff]
  omega

/-- R110: CBW of a channel and an index in range writes its byte and completes. -/
theorem exec_cbw_of_range {ch : BitVec 2} {idx : Byte} (h : colourInRange ch idx = true) (val : Byte) (s : State) :
    exec (.cbw ch idx val) s = .next { s with cb := s.cb.write (colourAddr ch.toNat idx.toNat) val }.complete :=
  if_pos h

/-- R111: CBR of an unwritten byte in range is refused. -/
theorem exec_cbr_of_unwritten {ch : BitVec 2} {idx : Byte} (hr : colourInRange ch idx = true)
    (hv : s.cb.read (colourAddr ch.toNat idx.toNat) = none) :
    exec (.cbr ch idx) s = .refused (.unwrittenColourByte s.pc) := by
  simp [exec, execCbr, hr, hv]

/-- Settles O15: the one write that CBW makes, by the laws of the colour buffer. -/
theorem cbwWritesOneByte : Obligations.CbwWritesOneByte := by
  intro s ch idx val
  refine ⟨fun hout => operandsOutOfRangeAreRefused _ s (colourInRange_eq_false hout), fun hch hidx => ?_⟩
  have hrange := colourInRange_iff.mpr ⟨hch, hidx⟩
  exact ⟨_, exec_cbw_of_range hrange val s, rfl, Memory.read_write_same _ _ _,
    fun a ha => Memory.read_write_other _ _ ha, Memory.wf_write val (colourAddr_lt hrange)⟩

/-- Settles O16: CBR out of range, of an unwritten byte and of a written one. -/
theorem cbrAnswersTheByte : Obligations.CbrAnswersTheByte := by
  intro s ch idx
  refine ⟨fun hout => operandsOutOfRangeAreRefused _ s (colourInRange_eq_false hout), fun hch hidx => ?_⟩
  have hrange := colourInRange_iff.mpr ⟨hch, hidx⟩
  refine ⟨exec_cbr_of_unwritten hrange, fun v hv => ?_⟩
  rw [exec_cbr_of_written hrange hv, State.respond, BitVec.ofNat_toNat, zextByte]

/-! ## The steps of a SEND -/

/-- Settles O17: the frame that fits the buffer and the one that does not. -/
theorem sendBegins : Obligations.SendBegins := by
  intro s base count
  refine ⟨fun hout => operandsOutOfRangeAreRefused _ s ?_, fun hin => if_pos (frameInRange_iff.mpr hin)⟩
  rw [Instr.wellFormed, Bool.eq_false_iff, Ne, frameInRange_iff]
  omega

/-- R89: the bit of a pulse, with the address and the bit position as numbers. -/
theorem frameBit_eq_map_read (m : Memory) (base p : Nat) :
    frameBit m base p = (m.read (3 * (base + p / 24) + p % 24 / 8)).map (fun v => v.getLsbD (7 - p % 8)) := rfl

/-- R114: the block's move in a transmission whose last slot is not over is the bit step. -/
theorem blockStep_of_bit (hp : s.encPhase = .tx) (hlt : s.encPos.toNat < 24 * s.encCnt.toNat) :
    blockStep s = encBit s := by
  rw [blockStep_busy (by simp [hp]), encoderStep_of_bit hp hlt]

/-- R115: the block's move in a transmission whose last slot is over ends it. -/
theorem blockStep_of_end (hp : s.encPhase = .tx) (hpos : s.encPos.toNat = 24 * s.encCnt.toNat) :
    blockStep s = .next (encEnd s) := by
  simp [blockStep_busy, encoderStep, hp, hpos]

/-- R116: the block's move in the quiet period is the quiet step. -/
theorem blockStep_of_quiet (hp : s.encPhase = .quiet) : blockStep s = .next (encQuiet s) := by
  simp [blockStep_busy, encoderStep, hp]

/-- R114: a bit step on an unwritten byte is refused. -/
theorem encBit_of_unwritten (h : frameBit s.cb s.encBase.toNat s.encPos.toNat = none) :
    encBit s = .refused (.unwrittenColourByte s.pc) := by
  rw [encBit, h]

/-- R22: while a transmission lasts the next position fits its 13 bits: `24 * 255 < 2 ^ 13`. -/
theorem encPos_succ_toNat (hlt : s.encPos.toNat < 24 * s.encCnt.toNat) :
    (s.encPos + 1).toNat = s.encPos.toNat + 1 :=
  BitVec.toNat_add_of_lt (by change s.encPos.toNat + 1 < 2 ^ 13; omega)

/-- Settles O18: the bit step on an unwritten byte and on a written one. -/
theorem bitStepEmitsOnePulse : Obligations.BitStepEmitsOnePulse := by
  intro s hp hlt
  have hbit := frameBit_eq_map_read s.cb s.encBase.toNat s.encPos.toNat
  rw [blockStep_of_bit hp hlt]
  refine ⟨fun hnone => encBit_of_unwritten ?_, fun v hv => ⟨_, encBit_of_frameBit ?_, encPos_succ_toNat hlt, rfl⟩⟩
  · rw [hbit, hnone, Option.map_none]
  · rw [hbit, hv, Option.map_some]

/-- R115: the end-of-transmission step runs the handler once if a tick is held. -/
theorem encEnd_delivers (s : State) :
    encEnd s = { s with
      ie := true, tpend := false, encPhase := .quiet, rsp := none
      count := if s.tpend then (handler s).count else s.count
      tf := if s.tpend then (handler s).tf else s.tf } := by
  obtain ⟨hcount, htf⟩ := openGate_delivers s
  rw [← hcount, ← htf]
  exact encEnd_eq s

/-- Settles O19: the end of the transmission without a held tick and with one. -/
theorem transmissionEnds : Obligations.TransmissionEnds := by
  intro s hp hpos
  rw [blockStep_of_end hp hpos, encEnd_delivers]
  exact ⟨fun hnone => by simp [hnone], fun hheld => by simp [hheld]⟩

/-- Settles O20: the quiet step, written out. -/
theorem quietStepCompletesSend : Obligations.QuietStepCompletesSend := fun _ hp => blockStep_of_quiet hp

/-! ## The closed gate -/

/-- R24, R25, R113: no handler has run from `s` to `t`: the countdown and the flag are as they were, the gate is closed,
and a held tick is still held. -/
def HandlerHeld (s t : State) : Prop :=
  t.count = s.count ∧ t.tf = s.tf ∧ t.ie = false ∧ (s.tpend = true → t.tpend = true)

/-- R114: a step of the encoder that does not end the transmission. -/
theorem encoderStep_handlerHeld (hp : s.encPhase = .tx) (hie : s.ie = false) (h : encoderStep s = .next t)
    (ht : t.encPhase = .tx) : HandlerHeld s t := by
  rcases encoderStep_cases h with ⟨_, rfl⟩ | ⟨_, _, b, _, rfl⟩ | ⟨_, _, rfl⟩ | ⟨_, _, rfl⟩ | ⟨hquiet, _⟩
  case inr.inr.inl => cases ht
  case inr.inr.inr.inr => simp [hp] at hquiet
  all_goals exact ⟨rfl, rfl, hie, id⟩

/-- R136: a tick behind the closed gate is held, or lost. -/
theorem tick_handlerHeld (hie : s.ie = false) : HandlerHeld s (tick s) := by
  rcases tick_cases s with ⟨hopen, _⟩ | ⟨_, _, he⟩ | ⟨_, _, he⟩
  · simp [hie] at hopen
  · rw [he]; exact ⟨rfl, rfl, hie, id⟩
  · rw [he]; exact ⟨rfl, rfl, hie, fun _ => rfl⟩

theorem tickStep_handlerHeld (hie : s.ie = false) : HandlerHeld s (tickStep s) := by
  rcases tickStep_cases s with ⟨_, he⟩ | ⟨_, he⟩ <;> rw [he]
  · exact tick_handlerHeld hie
  · exact ⟨rfl, rfl, hie, id⟩

/-- Settles O21: of the moves that stay in the transmission each holds the handler; a reset and a command leave or find
another phase. -/
theorem transmissionHoldsTheHandler : Obligations.TransmissionHoldsTheHandler := by
  intro s t hp hie hstep ht
  obtain ⟨m, u, rfl, -, hm⟩ := step_cases hstep
  rcases takeMove_cases hm with ⟨_, hidle, _⟩ | ⟨_, _, hx⟩ | ⟨_, rfl⟩ | ⟨_, rfl⟩
  · cases hp.symm.trans hidle
  · exact encoderStep_handlerHeld (s := { s with moves := s.moves.tail }) hp hie hx ht
  · exact tickStep_handlerHeld (s := { s with moves := s.moves.tail }) hie
  · cases ht

end Sys2Proof.Machine

/-! ## The whole SEND, and its slots -/

namespace Sys2Proof.Machine

open Sys2Proof.Claims

/-- R112 to R116: what a completed SEND has written. -/
theorem State.sent_eq (base count : Byte) (s : State) :
    s.sent base count = { s with
      encBase := base, encCnt := count, encPos := BitVec.ofNat 13 (24 * count.toNat), encCyc := 0, encPhase := .idle
      ie := true, tpend := false, dout := false, rsp := none, pc := s.pc + 1
      line := s.line ++ framePulses s.cb base.toNat count.toNat ++ [.quiet]
      count := (s.sent base count).count, tf := (s.sent base count).tf } := by
  rw [framePulses_eq_map, State.sent, encEnd_eq]
  rfl

theorem length_framePulses (m : Memory) (base count : Nat) : (framePulses m base count).length = 24 * count := by
  rw [framePulses_eq_map, List.length_map, List.length_range]

/-- Settles O22: the run is the SEND's own moves up to what ticks write, and the gate it leaves open holds no tick. -/
theorem sendTransmitsTheFrame : Obligations.SendTransmitsTheFrame := by
  intro s base count rest hp hc hframe hwritten hrst hcount
  have hsend := leads_send hp hc hframe hwritten
  rw [← hcount, State.sent_eq] at hsend
  obtain ⟨t, ht, _, _, _, _, _, hheld, rfl⟩ := hsend.run hrst
  exact ⟨_, ht, rfl, length_framePulses _ _ _, rfl, rfl, rfl, rfl, rfl, hheld rfl, rfl, rfl, rfl, rfl, rfl, rfl, rfl,
    rfl, rfl⟩

/-- Settles O51: a slot's levels, cycle by cycle. -/
theorem slotsDifferOnlyInHighTime : Obligations.SlotsDifferOnlyInHighTime := by
  intro p hp
  have hslot b := waveform_pulse (highCycles_lt_slotCyc hp b).le
  obtain ⟨-, hlt, -⟩ := Profile.wf_bounds hp
  refine ⟨fun b => ?_, fun b k hk => ?_, hlt⟩
  · rw [hslot, List.length_map, List.length_range]
  · rw [hslot, List.getElem?_map, List.getElem?_range hk, Option.map_some, highCycles]

end Sys2Proof.Machine

end

section
/-! PROOFS of the family `41_scheduler.md`: the handler's countdown and its period (O28, O30), the ticks of a
transmission (O31), the scheduler's commands (O24 to O27), and a single tick (O29). -/

/-! ## The handler's countdown -/

namespace Sys2Proof.Machine

variable {s t u : State}

/-- R137: the countdown comes to 0 from 1 alone. -/
theorem count_pred_eq_zero_iff {c : Half} : c - 1 = 0 ↔ c.toNat = 1 := by
  rw [sub_eq_zero, ← BitVec.toNat_inj]
  rfl

/-- R137: the handler at a countdown of 1. -/
theorem handler_of_count_one (h : s.count.toNat = 1) : handler s = { s with count := s.period, tf := true } :=
  if_pos (count_pred_eq_zero_iff.mpr h)

/-- R137: the handler at any other countdown. -/
theorem handler_of_count_ne_one (h : s.count.toNat ≠ 1) : handler s = { s with count := s.count - 1 } :=
  if_neg (count_pred_eq_zero_iff.not.mpr h)

/-- R137: a countdown of at least 1 does not wrap. -/
theorem count_pred_toNat {c : Half} (h : 1 ≤ c.toNat) : (c - 1).toNat = c.toNat - 1 :=
  BitVec.toNat_sub_of_le h

/-- Settles O28: the raise at 1, the decrement above it, and the wrap at 0. -/
theorem handlerCountsDown : Obligations.HandlerCountsDown := by
  intro s
  refine ⟨handler_of_count_one, fun h => ⟨s.count - 1, count_pred_toNat (by omega), ?_⟩, fun h => ?_⟩
  · exact handler_of_count_ne_one (by omega)
  · have hzero : s.count = 0 := BitVec.eq_of_toNat_eq h
    have hwrap : s.count - 1 = 65535 := by rw [hzero]; rfl
    rw [handler_of_count_ne_one (by omega), hwrap]

/-- R137: the next countdown, as a number. -/
theorem handler_count_toNat (h : 1 ≤ s.count.toNat) :
    (handler s).count.toNat = if s.count.toNat = 1 then s.period.toNat else s.count.toNat - 1 := by
  split
  next h1 => rw [handler_of_count_one h1]
  next h1 => rw [handler_of_count_ne_one h1, count_pred_toNat h]

@[simp] theorem iterate_handler_period (n : Nat) (s : State) : (handler^[n] s).period = s.period := by
  induction n with
  | zero => rfl
  | succ n ih => rw [Function.iterate_succ_apply', handler_period, ih]

/-- A remainder goes up by one, or comes round to 0. -/
theorem succ_mod_cases {p : Nat} (hp : 1 ≤ p) (n : Nat) :
    (n % p + 1 = p ∧ (n + 1) % p = 0) ∨ (n % p + 1 < p ∧ (n + 1) % p = n % p + 1) := by
  have hlt : n % p < p := Nat.mod_lt n hp
  rw [← Nat.mod_add_mod n p 1]
  rcases (Nat.succ_le_of_lt hlt).eq_or_lt with h | h
  · exact .inl ⟨h, by rw [← Nat.succ_eq_add_one, h, Nat.mod_self]⟩
  · exact .inr ⟨h, Nat.mod_eq_of_lt h⟩

/-- R138: after `n` handler runs from a whole period, `n` modulo the period of it are gone. -/
theorem iterate_handler_count (hp : 1 ≤ s.period.toNat) (hc : s.count = s.period) (n : Nat) :
    (handler^[n] s).count.toNat = s.period.toNat - n % s.period.toNat := by
  induction n with
  | zero => simp [hc]
  | succ n ih =>
    have hlt : n % s.period.toNat < s.period.toNat := Nat.mod_lt n hp
    rw [Function.iterate_succ_apply', handler_count_toNat (by omega), ih, iterate_handler_period]
    rcases succ_mod_cases hp n with ⟨h, hmod⟩ | ⟨h, hmod⟩ <;> rw [hmod]
    · rw [if_pos (by omega), Nat.sub_zero]
    · rw [if_neg (by omega), Nat.sub_sub]

/-- Settles O30: the countdown after `n` runs is 1 exactly before a run whose number the period divides. -/
theorem raisesOncePerPeriod : Obligations.RaisesOncePerPeriod := by
  intro s n hp hc
  have hcount := iterate_handler_count hp hc n
  refine ⟨hcount, ?_, fun htf => ?_⟩
  · rw [handler_tf, Bool.false_or, decide_eq_true_iff, count_pred_eq_zero_iff, hcount, Nat.dvd_iff_mod_eq_zero]
    rcases succ_mod_cases hp n with ⟨h, hmod⟩ | ⟨h, hmod⟩ <;> omega
  · rw [Function.iterate_succ_apply', handler_tf, htf, Bool.true_or]

end Sys2Proof.Machine

/-! ## A single tick, and the ticks of a transmission -/

namespace Sys2Proof.Machine

open Sys2Proof.Claims

variable {s t u : State}

/-- R136: behind the closed gate a tick is held, whether or not one was held before. -/
theorem tick_of_closed (hie : s.ie = false) : tick s = { s with tpend := true } := by
  rcases tick_cases s with ⟨hopen, _⟩ | ⟨_, hheld, he⟩ | ⟨_, _, he⟩
  · simp [hie] at hopen
  · rw [he, ← hheld]
  · exact he

/-- R136: with `RUN = 1` a tick step is a tick event. -/
theorem tickStep_of_run (hrun : s.run = true) : tickStep s = (tick s).silent := if_pos hrun

/-- R136: with `RUN = 0` a tick step is no event (log 7). -/
theorem tickStep_of_stopped (hrun : s.run = false) : tickStep s = s.silent := by
  simp [tickStep, hrun]

/-- R139: no handler has run from `s` to `u`, and of the ticks among the moves `ms` one is held. -/
structure HeldOver (ms : List Move) (s u : State) : Prop where
  count : u.count = s.count
  period : u.period = s.period
  tf : u.tf = s.tf
  tpend : u.tpend = true ↔ s.tpend = true ∨ .tick ∈ ms

theorem HeldOver.cons {m : Move} {ms : List Move} (h : HeldOver [m] s t) (h' : HeldOver ms t u) :
    HeldOver (m :: ms) s u where
  count := h'.count.trans h.count
  period := h'.period.trans h.period
  tf := h'.tf.trans h.tf
  tpend := by rw [h'.tpend, h.tpend, List.mem_singleton, List.mem_cons, or_assoc]

/-- R113, R114: in `s` a transmission of written colours is in progress behind the closed gate, and its remaining slots
are the block's moves in `ms`. -/
structure State.InWindow (ms rest : List Move) (s : State) : Prop where
  sending : s.encPhase = .tx
  gate : s.ie = false
  enabled : s.run = true
  written : coloursWritten s.cb s.encBase.toNat s.encCnt.toNat
  slots : s.encPos.toNat + ms.count .block = 24 * s.encCnt.toNat
  noReset : .rst ∉ ms
  moves : s.moves = ms ++ rest

variable {ms rest : List Move}

/-- R10: the first of the moves is taken. -/
theorem State.InWindow.step_eq {m : Move} (h : s.InWindow (m :: ms) rest) :
    step s = takeMove m { s with moves := ms ++ rest } := step_of_move h.moves

/-- R114: a slot of the transmission. -/
theorem State.InWindow.step_block (h : s.InWindow (.block :: ms) rest) :
    ∃ t, step s = .next t ∧ t.InWindow ms rest ∧ HeldOver [.block] s t := by
  have hslots := h.slots
  rw [List.count_cons_self] at hslots
  have hlt : s.encPos.toNat < 24 * s.encCnt.toNat := by omega
  obtain ⟨b, hb, -⟩ := frameBit_of_written h.written hlt
  refine ⟨{ s with moves := ms ++ rest }.afterBit b, ?_, ?_, ⟨rfl, rfl, rfl, by simp [State.afterBit]⟩⟩
  · rw [h.step_eq, takeMove, blockStep_of_bit (by exact h.sending) (by exact hlt), encBit_of_frameBit (by exact hb)]
  · have hpos : (s.encPos + 1).toNat + ms.count .block = 24 * s.encCnt.toNat := by
      rw [encPos_succ_toNat hlt]
      omega
    exact ⟨h.sending, h.gate, h.enabled, h.written, hpos, fun hr => h.noReset (List.mem_cons_of_mem _ hr), rfl⟩

/-- R136: a tick within the transmission. -/
theorem State.InWindow.step_tick (h : s.InWindow (.tick :: ms) rest) :
    ∃ t, step s = .next t ∧ t.InWindow ms rest ∧ HeldOver [.tick] s t := by
  refine ⟨{ s with moves := ms ++ rest, tpend := true }.silent, ?_, ?_, ⟨rfl, rfl, rfl, by simp⟩⟩
  · rw [h.step_eq, takeMove, tickStep_of_run (by exact h.enabled), tick_of_closed (by exact h.gate)]
  · exact ⟨h.sending, h.gate, h.enabled, h.written, by simpa using h.slots,
      fun hr => h.noReset (List.mem_cons_of_mem _ hr), rfl⟩

/-- R139: the moves of a transmission up to its last slot. -/
theorem State.InWindow.run (h : s.InWindow ms rest) :
    ∃ u, Host.Core.run core ms.length s = .next u ∧ u.InWindow [] rest ∧ HeldOver ms s u := by
  induction ms generalizing s with
  | nil => exact ⟨s, rfl, h, rfl, rfl, rfl, by simp⟩
  | cons m ms ih =>
    have hfirst : ∃ t, step s = .next t ∧ t.InWindow ms rest ∧ HeldOver [m] s t := by
      cases m with
      | block => exact h.step_block
      | tick => exact h.step_tick
      | rst => exact absurd (List.mem_cons_self ..) h.noReset
    obtain ⟨t, hstep, hwindow, hheld⟩ := hfirst
    obtain ⟨u, hrun, hend, hheld'⟩ := ih hwindow
    exact ⟨u, by rw [List.length_cons, run_succ _ hstep, hrun], hend, hheld.cons hheld'⟩

/-- R115: the block's move after the last slot ends the transmission. -/
theorem State.InWindow.step_end (h : s.InWindow [] (.block :: rest)) :
    step s = .next (encEnd { s with moves := rest }) := by
  rw [step_of_move h.moves, takeMove, blockStep_of_end (by exact h.sending) (by exact h.slots)]

/-- R137: what a handler run does to the countdown and the flag depends on the countdown, the period and the flag. -/
theorem handler_congr (hcount : u.count = s.count) (hperiod : u.period = s.period) (htf : u.tf = s.tf) :
    (handler u).count = (handler s).count ∧ (handler u).tf = (handler s).tf := by
  simp [hcount, hperiod, htf]

/-- R139: the end of a transmission runs the handler once if a tick fell in it. -/
theorem HeldOver.encEnd_delivers (h : HeldOver ms s u) (hs : s.tpend = false) :
    (encEnd u).count = (if .tick ∈ ms then (handler s).count else s.count) ∧
    (encEnd u).tf = (if .tick ∈ ms then (handler s).tf else s.tf) := by
  have htpend : u.tpend = true ↔ .tick ∈ ms := by simpa [hs] using h.tpend
  obtain ⟨hcount, htf⟩ := handler_congr h.count h.period h.tf
  rw [Machine.encEnd_delivers]
  simp only [htpend, hcount, htf, h.count, h.tf, and_self]

/-- Settles O31: the moves up to the last slot hold the handler, and the one after them ends the transmission. -/
theorem oneTickSurvivesTheWindow : Obligations.OneTickSurvivesTheWindow := by
  intro s ms hp hie htpend hrun hslots hwritten hrst hmoves
  have hwindow : s.InWindow ms [.block] := ⟨hp, hie, hrun, hwritten, hslots, hrst, hmoves⟩
  obtain ⟨u, hu, hend, hheld⟩ := hwindow.run
  have hlast : Host.Core.run core 1 u = .next (encEnd { u with moves := [] }) := run_succ 0 hend.step_end
  have hheld' : HeldOver ms s { u with moves := [] } := { hheld with }
  obtain ⟨hcount, htf⟩ := hheld'.encEnd_delivers htpend
  have hnone : ms.count .tick = 0 ↔ .tick ∉ ms := List.count_eq_zero
  refine ⟨u, _, hu, hend.sending, hheld.count, hheld.tf, ?_, (run_add 1 hu).trans hlast, rfl, ?_, ?_, ?_, ?_⟩
  · rw [hheld.tpend, htpend, Nat.one_le_iff_ne_zero, Ne, hnone]
    simp
  · rw [encEnd_eq]
  · rw [encEnd_eq]
  · rw [hcount]
    simp only [hnone, ite_not]
  · rw [htf]
    simp only [hnone, ite_not]

/-- Settles O29: a tick step behind the open gate, behind the closed one, and with the Tick Source disabled. -/
theorem tickDeliversOrPends : Obligations.TickDeliversOrPends := by
  intro s
  refine ⟨fun hrun hie => ?_, fun hrun hie => ?_, tickStep_of_stopped⟩
  · have hopen : tick s = handler s := if_pos hie
    rw [tickStep_of_run hrun, hopen, State.silent]
  · rw [tickStep_of_run hrun, tick_of_closed hie, State.silent]

end Sys2Proof.Machine

/-! ## The scheduler's commands -/

namespace Sys2Proof.Machine

/-- Settles O24: the period that is refused and the one that is set. -/
theorem cfgSetsPeriodAndCount : Obligations.CfgSetsPeriodAndCount := by
  intro s imm
  refine ⟨fun hzero => operandsOutOfRangeAreRefused (.cfg imm) s ?_,
    fun hpos => if_pos (periodInRange_iff.mpr hpos)⟩
  rw [Instr.wellFormed, Bool.eq_false_iff, Ne, periodInRange_iff]
  omega

/-- Settles O25: the next state of START, by definition. -/
theorem startEnablesTicks : Obligations.StartEnablesTicks := fun _ => rfl

/-- Settles O26: the next state of STOP, and the tick step with the Tick Source disabled. -/
theorem stopDisablesTicks : Obligations.StopDisablesTicks := fun _ => ⟨rfl, fun _ => tickStep_of_stopped⟩

/-- Settles O27: the next states of the three commands, by definition. -/
theorem flagCommands : Obligations.FlagCommands := fun _ => ⟨rfl, rfl, rfl⟩

end Sys2Proof.Machine

end

section
/-! PROOFS of the family `42_tuning_fsm.md`: one evaluation of the tuning machine by state (O32 to O36), its bounds in
every well-formed configuration (O37), and a whole gesture (O38). -/

/-! ## TSTEP by the state it is evaluated in -/

namespace Sys2Proof.Machine

variable {c : Config} {s : State} {a b : Bool}

theorem exec_tstep (a b : Bool) (s : State) : exec (.tstep a b) s = .next (tuneEval config a b s).complete := rfl

theorem exec_tstep_of_start (h : s.tstate = .start) :
    exec (.tstep a b) s = .next (tuneStart config s).complete := by
  rw [exec_tstep, tuneEval, h]

theorem exec_tstep_of_hold (h : s.tstate = .hold) :
    exec (.tstep a b) s = .next (tuneHold config a b s).complete := by
  rw [exec_tstep, tuneEval, h]

theorem exec_tstep_of_add (h : s.tstate = .add) : exec (.tstep a b) s = .next (tuneAdd config s).complete := by
  rw [exec_tstep, tuneEval, h]

theorem exec_tstep_of_sub (h : s.tstate = .sub) : exec (.tstep a b) s = .next (tuneSub config s).complete := by
  rw [exec_tstep, tuneEval, h]

theorem exec_tstep_of_wait (h : s.tstate = .wait) :
    exec (.tstep a b) s = .next (tuneWait a b s).complete := by
  rw [exec_tstep, tuneEval, h]

/-- R152: `Add` is next exactly on input A alone below the upper bound. -/
theorem tuneHold_tstate_eq_add_iff :
    (tuneHold c a b s).tstate = .add ↔ a = true ∧ b = false ∧ s.thresh.toNat < c.thrMax := by
  simp only [tuneHold]
  split_ifs <;> simp_all

/-- R152: `Sub` is next exactly on input B alone above the lower bound. -/
theorem tuneHold_tstate_eq_sub_iff :
    (tuneHold c a b s).tstate = .sub ↔ a = false ∧ b = true ∧ c.thrMin < s.thresh.toNat := by
  simp only [tuneHold]
  split_ifs <;> simp_all

theorem tuneHold_tstate_cases :
    (tuneHold c a b s).tstate = .add ∨ (tuneHold c a b s).tstate = .sub ∨ (tuneHold c a b s).tstate = .hold := by
  simp only [tuneHold]
  split_ifs <;> simp

/-- R155: the machine re-arms with both inputs released. -/
theorem tuneWait_eq (a b : Bool) (s : State) :
    tuneWait a b s = { s with tstate := if a = false ∧ b = false then .hold else .wait } := by
  simp [tuneWait]

/-- Settles O32: what `Start` writes. -/
theorem tuningStartInitialises : Obligations.TuningStartInitialises := fun _ _ _ hs => exec_tstep_of_start hs

/-- Settles O33: the two ways out of `Hold`, and the frame. -/
theorem tuningHoldGates : Obligations.TuningHoldGates := fun _ _ _ hs =>
  ⟨_, exec_tstep_of_hold hs, rfl, tuneHold_tstate_eq_add_iff, tuneHold_tstate_eq_sub_iff, tuneHold_tstate_cases⟩

/-- Settles O36: `Wait` stays until both inputs are released. -/
theorem tuningWaitsForRelease : Obligations.TuningWaitsForRelease := by
  intro s a b hs
  rw [exec_tstep_of_wait hs, tuneWait_eq]
  rfl

end Sys2Proof.Machine

/-! ## The step that `Add` and `Sub` apply -/

namespace Sys2Proof.Machine

variable {s : State} (c : Config)

theorem fitsIn_some (w n : Nat) : fitsIn w (some n) = decide (n < 2 ^ w) := rfl

/-- R7: a difference that is not below zero is exact. -/
theorem subExact_of_le {x y : Nat} (h : y ≤ x) : subExact x y = some (x - y) := if_pos h

/-- R7: a difference from a register's number fits the register exactly where it is not below zero. -/
theorem fitsIn_subExact {w : Nat} (x : BitVec w) (y : Nat) : fitsIn w (subExact x.toNat y) = decide (y ≤ x.toNat) := by
  have hlt : x.toNat - y < 2 ^ w := (Nat.sub_le _ _).trans_lt x.isLt
  rw [subExact]
  split
  next hle => rw [fitsIn_some, decide_eq_true hlt, decide_eq_true hle]
  next hgt => rw [decide_eq_false hgt]; rfl

/-- R153: a threshold that fits its register goes one step up. -/
theorem tuneAdd_thresh_toNat (h : s.thresh.toNat + c.thrStep < 2 ^ 16) :
    (tuneAdd c s).thresh.toNat = s.thresh.toNat + c.thrStep := narrow_toNat h

/-- R153: a tune level that fits its register goes one up. -/
theorem tuneAdd_tune_toNat (h : s.tune.toNat + 1 < 2 ^ 3) :
    (tuneAdd c s).tune.toNat = s.tune.toNat + 1 := narrow_toNat h

/-- Log 4: `Add` draws no value exactly where both results fit. -/
theorem tuneAdd_free :
    (tuneAdd c s).free =
      if s.thresh.toNat + c.thrStep < 2 ^ 16 ∧ s.tune.toNat + 1 < 2 ^ 3 then s.free else s.free + 1 := by
  simp only [tuneAdd, State.retune, fitsIn_some, Bool.and_eq_true, decide_eq_true_eq]

/-- R154: a threshold that fits its register goes one step down. -/
theorem tuneSub_thresh_toNat (h : c.thrStep ≤ s.thresh.toNat) :
    (tuneSub c s).thresh.toNat = s.thresh.toNat - c.thrStep := by
  rw [tuneSub, subExact_of_le h]
  exact narrow_toNat (by omega)

/-- R154: a tune level that fits its register goes one down. -/
theorem tuneSub_tune_toNat (h : 1 ≤ s.tune.toNat) : (tuneSub c s).tune.toNat = s.tune.toNat - 1 := by
  rw [tuneSub, subExact_of_le h]
  exact narrow_toNat (by omega)

/-- Log 4: `Sub` draws no value exactly where neither result is below zero. -/
theorem tuneSub_free :
    (tuneSub c s).free = if c.thrStep ≤ s.thresh.toNat ∧ 1 ≤ s.tune.toNat then s.free else s.free + 1 := by
  simp only [tuneSub, State.retune, fitsIn_subExact, Bool.and_eq_true, decide_eq_true_eq]

/-- Settles O35: threshold, tune level and counter of draws, for `Add` and for `Sub`. -/
theorem tuningAlwaysCompletes : Obligations.TuningAlwaysCompletes := fun _ _ _ =>
  ⟨fun hs => ⟨_, exec_tstep_of_add hs, rfl,
      tuneAdd_thresh_toNat config, tuneAdd_tune_toNat config, tuneAdd_free config⟩,
    fun hs => ⟨_, exec_tstep_of_sub hs, rfl,
      tuneSub_thresh_toNat config, tuneSub_tune_toNat config, tuneSub_free config⟩⟩

/-- Settles O34: strictly inside the bounds both results fit, so each is the rule's and no value is drawn. -/
theorem tuningStepsOnce : Obligations.TuningStepsOnce := by
  intro s a b
  obtain ⟨hadd, hsub⟩ := tuningAlwaysCompletes s a b
  refine ⟨fun hs hmax hlevel => ?_, fun hs hmin hlevel => ?_⟩
  · obtain ⟨t, hexec, hframe, hthresh, htune, hfree⟩ := hadd hs
    rw [if_pos (by omega)] at hfree
    rw [hfree] at hframe
    exact ⟨t, hexec, hthresh (by omega), htune (by omega), hframe⟩
  · obtain ⟨t, hexec, hframe, hthresh, htune, hfree⟩ := hsub hs
    rw [if_pos (by omega)] at hfree
    rw [hfree] at hframe
    have hdown := hthresh (by omega)
    have hlower := htune hlevel
    exact ⟨t, hexec, by omega, by omega, hframe⟩

end Sys2Proof.Machine

/-! ## The bounds, and a whole gesture -/

namespace Sys2Proof.Machine

open Sys2Proof.Claims

variable {s t u v : State}

/-- R156: the lock-step keeps the threshold in its bounds. -/
theorem State.TuningInv.thresh_bounds {c : Config} (hc : c.wf = true) (h : s.TuningInv c) :
    c.thrMin ≤ s.thresh.toNat ∧ s.thresh.toNat ≤ c.thrMax := by
  obtain ⟨hlock, hlevel, -, -⟩ := h
  rw [hlock]
  exact ⟨Nat.le_add_right _ _, Config.lockStep_le hc hlevel⟩

/-- Settles O37: the invariant of an evaluation, and the bounds it gives. -/
theorem tuningStaysInBounds : Obligations.TuningStaysInBounds := by
  intro c s a b hc h
  have hinv := tuneEval_tuningInv hc a b h
  exact ⟨hinv, State.TuningInv.thresh_bounds hc hinv⟩

theorem execAll_cons {i : Instr} {is : List Instr} (h : exec i s = .next t) : execAll (i :: is) s = execAll is t := by
  rw [execAll, h]

/-- R155: an evaluation in `Wait` with an input still asserted leaves the machine as it is. -/
theorem exec_tstep_held (hs : s.tstate = .wait) {l : Bool × Bool} (hl : l ≠ (false, false)) :
    exec (.tstep l.1 l.2) s = .next s.complete := by
  have hheld : ¬(l.1 = false ∧ l.2 = false) := fun h => hl (Prod.ext h.1 h.2)
  rw [tuningWaitsForRelease s l.1 l.2 hs, if_neg hheld, ← hs]
  rfl

/-- R157: any number of evaluations in `Wait` with an input still asserted apply no step. -/
theorem execAll_tstep_held {held : List (Bool × Bool)} (hs : s.tstate = .wait)
    (hheld : ∀ l ∈ held, l ≠ (false, false)) :
    ∃ t, execAll (held.map fun l => .tstep l.1 l.2) s = .next t ∧
      t.tstate = .wait ∧ t.thresh = s.thresh ∧ t.tune = s.tune := by
  induction held generalizing s with
  | nil => exact ⟨s, rfl, hs, rfl, rfl⟩
  | cons l ls ih =>
    obtain ⟨hl, hls⟩ := List.forall_mem_cons.mp hheld
    obtain ⟨t, ht, hwait, hkept⟩ := ih (s := s.complete) hs hls
    exact ⟨t, by rw [List.map_cons, execAll_cons (exec_tstep_held hs hl), ht], hwait, hkept⟩

/-- R157: a gesture whose first two evaluations end in `Wait` keeps the step they applied, and then re-arms. -/
theorem execAll_gesture {a b x y : Bool} {held : List (Bool × Bool)} (hsee : exec (.tstep a b) s = .next u)
    (happly : exec (.tstep x y) u = .next v) (hv : v.tstate = .wait) (hheld : ∀ l ∈ held, l ≠ (false, false)) :
    ∃ t, execAll (.tstep a b :: .tstep x y :: held.map (fun l => .tstep l.1 l.2)) s = .next t ∧
      t.tstate = .wait ∧ t.thresh = v.thresh ∧ t.tune = v.tune ∧
      exec (.tstep false false) t = .next { t with tstate := .hold, pc := t.pc + 1, rsp := none } := by
  obtain ⟨t, ht, hwait, hthresh, htune⟩ := execAll_tstep_held hv hheld
  exact ⟨t, by rw [execAll_cons hsee, execAll_cons happly, ht], hwait, hthresh, htune,
    tuningWaitsForRelease t false false hwait⟩

/-- Settles O38: `Hold` sees the input, `Add` or `Sub` applies the step, and `Wait` keeps it; the lock-step gives the
level its room. -/
theorem oneStepPerGesture : Obligations.OneStepPerGesture := by
  intro s x y held hs ⟨hlock, _⟩ hheld
  rw [config_thrMin, config_thrStep] at hlock
  refine ⟨fun hmax => ?_, fun hmin => ?_⟩
  · have hadd := (tuneHold_tstate_eq_add_iff (c := config)).mpr ⟨rfl, rfl, hmax⟩
    have hroom : s.tune.toNat < 7 := by omega
    obtain ⟨v, happly, hup, hlevel, hv⟩ :=
      (tuningStepsOnce (tuneHold config true false s).complete x y).1 hadd hmax hroom
    obtain ⟨t, hall, hwait, hthresh, htune, hrearm⟩ :=
      execAll_gesture (exec_tstep_of_hold hs) happly (by rw [hv]) hheld
    exact ⟨t, hall, hwait, hthresh ▸ hup, htune ▸ hlevel, hrearm⟩
  · have hsub := (tuneHold_tstate_eq_sub_iff (c := config)).mpr ⟨rfl, rfl, hmin⟩
    have hroom : 0 < s.tune.toNat := by omega
    obtain ⟨v, happly, hdown, hlevel, hv⟩ :=
      (tuningStepsOnce (tuneHold config false true s).complete x y).2 hsub hmin hroom
    obtain ⟨t, hall, hwait, hthresh, htune, hrearm⟩ :=
      execAll_gesture (exec_tstep_of_hold hs) happly (by rw [hv]) hheld
    exact ⟨t, hall, hwait, hthresh ▸ hdown, htune ▸ hlevel, hrearm⟩

end Sys2Proof.Machine

end

section
/-! PROOFS of the family `43_indicator_fsm.md`: one evaluation of the indicator machine (O39, O40), and a series of
them (O41). -/

/-! ## ISTEP by the state it is evaluated in -/

namespace Sys2Proof.Machine

variable {s : State} {sample : Half}

theorem exec_istep (sample : Half) (s : State) : exec (.istep sample) s = .next (indEval config sample s).complete := rfl

theorem exec_istep_of_start (hs : s.istate = .start) :
    exec (.istep sample) s = .next (s.indicate config false).complete := by
  rw [exec_istep, indEval, hs]

/-- R167: `Off` and `On` make the same comparison. -/
theorem exec_istep_of_ne_start (hs : s.istate ≠ .start) :
    exec (.istep sample) s = .next (s.indicate config (s.thresh.toNat ≤ sample.toNat)).complete := by
  obtain ⟨-, heval⟩ := (indEval_cases config sample s).resolve_left fun h => hs h.1
  rw [exec_istep, heval]

/-- R93: the reference mask of a level, as a number. -/
theorem maskAt_config : ∀ k : BitVec 3, maskAt config k = BitVec.ofNat 8 (2 ^ k.toNat - 1) := by decide

/-- Settles O39: what `Start` writes. -/
theorem indicatorStartIgnoresSample : Obligations.IndicatorStartIgnoresSample := fun _ _ hs => exec_istep_of_start hs

/-- Settles O40: the two results of the comparison. -/
theorem indicatorIsPure : Obligations.IndicatorIsPure := by
  intro s sample hs
  rw [exec_istep_of_ne_start hs]
  refine ⟨fun hle => ?_, fun hlt => ?_⟩
  · rw [decide_eq_true hle, ← maskAt_config]
    rfl
  · rw [decide_eq_false hlt.not_ge]
    rfl

end Sys2Proof.Machine

/-! ## A series of evaluations -/

namespace Sys2Proof.Machine

open Sys2Proof.Claims

variable {s : State}

/-- R167, R169: an evaluation in `Off` or `On` compares, does not lead back to `Start`, and keeps the threshold. -/
theorem exec_istep_next (sample : Half) (hs : s.istate ≠ .start) :
    ∃ t, exec (.istep sample) s = .next t ∧ (t.indFlag = true ↔ s.thresh.toNat ≤ sample.toNat) ∧
      t.istate ≠ .start ∧ t.thresh = s.thresh ∧ t.pc = s.pc + 1 := by
  refine ⟨_, exec_istep_of_ne_start hs, decide_eq_true_iff, ?_, rfl, rfl⟩
  rw [State.complete_istate, State.indicate_istate]
  split <;> simp

/-- R167: after a series of evaluations the flag is the comparison of the last sample alone. -/
theorem execAll_istep_last (samples : Nat → Half) (n : Nat) (hs : s.istate ≠ .start) :
    ∃ t, execAll ((List.range (n + 1)).map fun k => .istep (samples k)) s = .next t ∧
      (t.indFlag = true ↔ s.thresh.toNat ≤ (samples n).toNat) ∧ t.thresh = s.thresh ∧ t.pc = s.pc + (n + 1) := by
  induction n generalizing s samples with
  | zero =>
    obtain ⟨t, ht, hflag, -, hkept⟩ := exec_istep_next (samples 0) hs
    exact ⟨t, execAll_cons ht, hflag, hkept⟩
  | succ n ih =>
    obtain ⟨u, hu, -, huleft, huthresh, hupc⟩ := exec_istep_next (samples 0) hs
    obtain ⟨t, ht, hflag, hthresh, hpc⟩ := ih (fun k => samples (k + 1)) huleft
    refine ⟨t, ?_, huthresh ▸ hflag, hthresh.trans huthresh, by omega⟩
    rw [List.range_succ_eq_map, List.map_cons, execAll_cons hu, List.map_map]
    exact ht

/-- Settles O41: the last of the samples is below the threshold exactly at the even evaluations. -/
theorem indicatorHasNoHysteresis : Obligations.IndicatorHasNoHysteresis := by
  intro s n hs hpos
  obtain ⟨t, ht, hflag, hkept⟩ := execAll_istep_last (fun k => if k % 2 = 0 then s.thresh - 1 else s.thresh) n hs
  have hbelow : (s.thresh - 1).toNat = s.thresh.toNat - 1 := BitVec.toNat_sub_of_le hpos
  refine ⟨t, ht, hflag.trans ?_, hkept⟩
  split
  next heven => rw [hbelow]; omega
  next hodd => omega

end Sys2Proof.Machine

end

section
/-! PROOFS of the family `44_register_access.md`: NOP (O12), and the registers by value (O13). -/

/-! ## The packed registers as numbers -/

namespace Sys2Proof.Machine

/-- Two fields side by side are a sum, the upper one weighted. -/
theorem toNat_append_eq_add {n w : Nat} (x : BitVec n) (y : BitVec w) : (x ++ y).toNat = y.toNat + 2 ^ w * x.toNat := by
  rw [BitVec.toNat_append, ← Nat.shiftLeft_add_eq_or_of_lt y.isLt, Nat.shiftLeft_eq, Nat.add_comm, Nat.mul_comm]

/-- R7: zero extension keeps the number. -/
theorem toNat_zero_append {n w : Nat} (x : BitVec w) : (0#n ++ x).toNat = x.toNat := by
  rw [toNat_append_eq_add, BitVec.toNat_ofNat, Nat.zero_mod, Nat.mul_zero, Nat.add_zero]

/-- R38: register 0 has `TF` in bit 0 and `RUN` in bit 1. -/
theorem toNat_packed_tf_run (run tf : Bool) :
    (0#14 ++ BitVec.ofBool run ++ BitVec.ofBool tf).toNat = tf.toNat + 2 * run.toNat := by
  rw [toNat_append_eq_add, toNat_zero_append, BitVec.toNat_ofBool, BitVec.toNat_ofBool, pow_one]

/-- R38: register 7 has `IND_PATTERN` in bits 7:0 and `IND_FLAG` in bit 8. -/
theorem toNat_packed_pattern_flag (flag : Bool) (pattern : Byte) :
    (0#7 ++ BitVec.ofBool flag ++ pattern).toNat = pattern.toNat + 256 * flag.toNat := by
  rw [toNat_append_eq_add, toNat_zero_append, BitVec.toNat_ofBool, show 2 ^ 8 = 256 from rfl]

/-! ## The commands -/

/-- Settles O12: NOP completes, and does nothing else. -/
theorem nopOnlyCounts : Obligations.NopOnlyCounts := fun _ => rfl

/-- Settles O13: the operand check refuses a number above 7; each number up to 7 has a value, taken as a number
register by register. -/
theorem rdrAnswersTheRegister : Obligations.RdrAnswersTheRegister := by
  intro s reg
  refine ⟨fun h => ?_, fun h => ?_⟩
  · have hout : registerInRange reg = false := Bool.eq_false_iff.mpr (mt registerInRange_iff.mp h.not_ge)
    exact operandsOutOfRangeAreRefused (.rdr reg) s hout
  · have hin : registerInRange reg = true := registerInRange_iff.mpr h
    obtain ⟨v, hv⟩ := Option.isSome_iff_exists.mp (regValue_isSome hin s)
    refine ⟨v, exec_rdr_of_value hin hv, ?_⟩
    interval_cases reg.toNat <;> cases hv
    · exact toNat_packed_tf_run s.run s.tf
    · rfl  -- `PERIOD`
    · rfl  -- `COUNT`
    · rfl  -- `THRESH`
    · exact toNat_zero_append s.tune
    · rw [toNat_zero_append]
      cases s.tstate <;> rfl
    · rw [toNat_zero_append]
      cases s.istate <;> rfl
    · exact toNat_packed_pattern_flag s.indFlag s.indPattern

end Sys2Proof.Machine

end

section
/-! PROOFS of the family `45_control_loop.md`: the reference master's boot, and one outer iteration of its loop up to
the choice of mode (O60). -/

/-! ## What the commands of the boot and the loop do -/

namespace Sys2Proof.Machine

variable (c : Config) (a b : Bool) (sample : Half) (s : State)

@[simp] theorem tuneEval_encPhase : (tuneEval c a b s).encPhase = s.encPhase := by rw [tuneEval_eq]

@[simp] theorem tuneEval_tf : (tuneEval c a b s).tf = s.tf := by rw [tuneEval_eq]

@[simp] theorem indEval_encPhase : (indEval c sample s).encPhase = s.encPhase := by
  rcases indEval_cases c sample s with ⟨_, h⟩ | ⟨_, h⟩ <;> rw [h, State.indicate_encPhase]

/-- R130: CFG of a period other than 0 sets the period and restarts the countdown. -/
theorem exec_cfg_of_ne_zero {p : Half} (hp : p ≠ 0) (s : State) :
    exec (.cfg p) s = .next ({ s with period := p, count := p }).complete :=
  if_pos (periodInRange_iff.mpr (by bv_omega))

theorem State.with_cmds_eq {s : State} {ws : List Word} (h : s.cmds = ws) : { s with cmds := ws } = s := by
  rw [← h]

/-- R7: a flag is answered as 1 exactly when it is raised. -/
theorem zextFlag_eq_one_iff {flag : Bool} : zextFlag flag = 1 ↔ flag = true := by
  revert flag
  decide

end Sys2Proof.Machine

/-! ## The commands the master issues, one after another -/

namespace Sys2Proof.Machine

open Sys2Proof.Claims

variable {c : Config} {env : Collaborators} {y z : System} {i : Instr} {is : List Instr} {m : Master} {t : State}

/-- From `y` to `z`, in as many block moves as there are commands in `is`, the block does what those commands do. The
master's words displace whatever stood on the command port. -/
def Issues (c : Config) (env : Collaborators) (is : List Instr) (y z : System) : Prop :=
  systemRun c env is.length y = .next z ∧ execAll is { y.block with cmds := [] } = .next z.block

theorem Issues.nil (hc : y.block.cmds = []) : Issues c env [] y y :=
  ⟨rfl, congrArg Host.Outcome.next (State.with_cmds_eq hc)⟩

/-- R10, R39: while the block is ready, the master's next command is the one the block runs. -/
theorem Issues.cons (hp : y.block.encPhase = .idle) (hi : y.master.issue c env = (i, m))
    (hx : exec i { y.block with cmds := [] } = .next t) (h : Issues c env is (System.hear m t) z) :
    Issues c env (i :: is) y z := by
  obtain ⟨hrun, hall⟩ := h
  have hstep : y.step c env .block = .next (System.hear m t) := by
    have hs := System.step_issue hp (congrArg Prod.fst hi) (Laws.decodeOfEncode i) hx
    rwa [hi] at hs
  have hempty : { t with cmds := [] } = t := State.with_cmds_eq (exec_cmds hx)
  constructor
  · rw [List.length_cons, systemRun, hstep]
    exact hrun
  · rw [execAll_cons hx, ← hall]
    exact congrArg (execAll is) hempty.symm

/-- R94: a command without a response leaves the master its last answer. (`Issues.cons` with what the master hears put
in, so that the next system of a chain is a literal one.) -/
theorem Issues.cons_complete (hp : y.block.encPhase = .idle) (hi : y.master.issue c env = (i, m))
    (hx : exec i { y.block with cmds := [] } = .next t.complete) (h : Issues c env is ⟨m, t.complete⟩ z) :
    Issues c env (i :: is) y z :=
  .cons hp hi hx h

/-- R94: a response is the master's last answer. -/
theorem Issues.cons_respond {v : Half} (hp : y.block.encPhase = .idle) (hi : y.master.issue c env = (i, m))
    (hx : exec i { y.block with cmds := [] } = .next (t.respond v))
    (h : Issues c env is ⟨{ m with answer := some v }, t.respond v⟩ z) : Issues c env (i :: is) y z :=
  .cons hp hi hx h

/-- R191: the outer iteration starts with the levels polled. -/
theorem Master.issue_of_poll (h : m.place = .poll) :
    m.issue c env = (.tstep env.a env.b, { m with a := env.a, b := env.b, place := .askFlag }) := by
  simp only [Master.issue, h, Master.pollInputs]

/-- R192: a fresh sample is captured exactly when the flag was raised, else ISTEP has the last one again. -/
theorem Master.issue_of_heardFlag {flag : Bool} (h : m.place = .heardFlag) (ha : m.answer = some (zextFlag flag)) :
    m.issue c env = (.istep (if flag then env.latest else m.sample),
      { m with sample := if flag then env.latest else m.sample, place := .askIndicator }) := by
  simp only [Master.issue, h, ha, Option.some.injEq, zextFlag_eq_one_iff]

/-- R232: with no period wanted, the boot is a START. -/
theorem issues_boot_default (c : Config) (env : Collaborators) :
    ∃ z, Issues c env [.start] (System.initial none) z ∧ z.master.place = .poll ∧ z.block.run = true :=
  ⟨_, .cons rfl rfl rfl (.nil rfl), rfl, rfl⟩

/-- R232: with a period wanted, the boot is its CFG and then START, which makes the first period a whole one. -/
theorem issues_boot_wanted (c : Config) (env : Collaborators) {p : Half} (hp : p ≠ 0) :
    ∃ z, Issues c env [.cfg p, .start] (System.initial (some p)) z ∧ z.master.place = .poll ∧
      z.block.run = true ∧ z.block.period = p ∧ z.block.count = p :=
  ⟨_, .cons rfl rfl (exec_cfg_of_ne_zero hp _) (.cons rfl rfl rfl (.nil rfl)), rfl, rfl, rfl, rfl⟩

/-- R191, R192: one outer iteration up to the choice of mode, command by command. The block is ready for each, and the
flag TFTAC answers is the one the iteration started with, since TSTEP leaves it. -/
theorem issues_iteration (c : Config) (env : Collaborators) (hplace : y.master.place = .poll)
    (hp : y.block.encPhase = .idle) :
    ∃ z, Issues c env
        [.tstep env.a env.b, .tftac, .istep (if y.block.tf then env.latest else y.master.sample), .rdr 7] y z ∧
      z.master.place = .heardIndicator ∧ z.master.answer = z.block.rsp ∧ z.master.a = env.a ∧ z.master.b = env.b ∧
      z.master.sample = (if y.block.tf then env.latest else y.master.sample) :=
  ⟨_, .cons_complete hp (Master.issue_of_poll hplace) rfl <|
      .cons_respond (by simp [hp]) rfl rfl <|
      .cons_complete (by simp [hp]) (Master.issue_of_heardFlag rfl (by simp)) rfl <|
      .cons_respond (by simp [hp]) rfl rfl <| .nil rfl,
    rfl, rfl, rfl, rfl, rfl⟩

/-- Settles O60: the boot in either case, and the iteration, each as the commands that the master issues. -/
theorem masterPollsThenEvaluates : Obligations.MasterPollsThenEvaluates := by
  refine fun env => ⟨?_, fun p hp => ?_, fun y hplace hidle => ?_⟩
  · obtain ⟨z, ⟨hrun, hall⟩, hplace, hon⟩ := issues_boot_default config env
    exact ⟨z, hrun, hplace, hall, hon⟩
  · obtain ⟨z, ⟨hrun, hall⟩, hplace, hset⟩ := issues_boot_wanted config env hp
    exact ⟨z, hrun, hplace, hall, hset⟩
  · obtain ⟨z, ⟨hrun, hall⟩, hheard⟩ := issues_iteration config env hplace hidle
    exact ⟨z, hrun, hall, hheard⟩

end Sys2Proof.Machine

end

section
/-! PROOFS of the family `60_exceptions.md`: what a step can be refused for (O10), and a tick in the cycle of a command
or of the end of a transmission (O56). -/

/-! ## What a step can be refused for -/

namespace Sys2Proof.Machine

variable {s : State} {r : Refusal}

/-- A refused step is the block's, since a tick and a reset always have a next state: the acceptance of a command, or
a step of the encoder. -/
theorem step_refused_cases (h : step s = .refused r) :
    s.encPhase = .idle ∧ acceptCommand { s with moves := s.moves.tail } = .refused r ∨
    s.encPhase ≠ .idle ∧ encoderStep { s with moves := s.moves.tail } = .refused r := by
  have hblock : blockStep { s with moves := s.moves.tail } = .refused r := by
    cases hm : s.moves with
    | nil =>
      rw [step_of_no_moves hm] at h
      rw [List.tail_nil, ← hm]
      exact h
    | cons m ms =>
      rw [step_of_move hm] at h
      cases m with
      | block => exact h
      | tick => cases h
      | rst => cases h
  by_cases hp : s.encPhase = .idle
  · exact .inl ⟨hp, (blockStep_idle (by exact hp)).symm.trans hblock⟩
  · exact .inr ⟨hp, (blockStep_busy (by exact hp)).symm.trans hblock⟩

/-- R84, R201: the block accepts no word that no row matches, and no command whose meaning refuses it. -/
theorem acceptCommand_refused_cases (h : acceptCommand s = .refused r) :
    ∃ w ws, s.cmds = w :: ws ∧ (decode w = .reservedWord ∧ r = .reservedWord s.pc ∨
      ∃ i, decode w = .command i ∧ ExecRefused i { s with cmds := ws } r) := by
  unfold acceptCommand at h
  cases hc : s.cmds with
  | nil => simp [hc] at h
  | cons w ws =>
    simp only [hc] at h
    refine ⟨w, ws, rfl, ?_⟩
    cases hd : decode w with
    | reservedWord => exact .inl ⟨rfl, by simpa [hd] using h.symm⟩
    | command i => exact .inr ⟨i, rfl, exec_refused_cases (by simpa [hd] using h)⟩

/-- R114: of the encoder's steps the bit step alone can be refused, on an unwritten byte. -/
theorem encoderStep_refused_cases (h : encoderStep s = .refused r) :
    s.encPhase = .tx ∧ s.encPos.toNat < 24 * s.encCnt.toNat ∧
      frameBit s.cb s.encBase.toNat s.encPos.toNat = none ∧ r = .unwrittenColourByte s.pc := by
  cases hp : s.encPhase with
  | idle => simp [encoderStep, hp] at h
  | quiet => simp [encoderStep, hp] at h
  | tx =>
    by_cases hlt : s.encPos.toNat < 24 * s.encCnt.toNat
    · rw [encoderStep_of_bit hp hlt] at h
      cases hb : frameBit s.cb s.encBase.toNat s.encPos.toNat with
      | some b => simp [encBit_of_frameBit hb] at h
      | none => exact ⟨rfl, hlt, rfl, by simpa [encBit_of_unwritten hb] using h.symm⟩
    · simp only [encoderStep, hp, if_neg hlt] at h
      split at h <;> cases h

/-- Settles O10: a refused step is a word the idle block does not accept, or a bit step of the encoder. -/
theorem refusalsNameReasonAndPc : Obligations.RefusalsNameReasonAndPc := by
  intro s r h
  rcases step_refused_cases h with ⟨hp, haccept⟩ | ⟨_, hencoder⟩
  · obtain ⟨w, ws, hc, ⟨hd, rfl⟩ | ⟨i, hd, hx⟩⟩ := acceptCommand_refused_cases haccept
    · exact ⟨rfl, hp, w, ws, hc, hd⟩
    · cases r with
      | notModelled => exact False.elim hx
      | reservedWord pc => exact False.elim hx
      | outOfRange pc =>
        obtain ⟨hpc, hwf, hcfg⟩ := hx
        exact ⟨hpc, hp, w, ws, i, hc, hd, hwf, hcfg⟩
      | periodZero pc =>
        obtain ⟨hpc, rfl⟩ := hx
        exact ⟨hpc, hp, w, ws, hc, hd⟩
      | unwrittenColourByte pc =>
        obtain ⟨hpc, ch, idx, rfl, hread⟩ := hx
        exact ⟨hpc, .inl ⟨hp, w, ws, ch, idx, hc, hd, hread⟩⟩
  · obtain ⟨htx, hlt, hbit, rfl⟩ := encoderStep_refused_cases hencoder
    rw [frameBit_eq_map_read, Option.map_eq_none_iff] at hbit
    exact ⟨rfl, .inr ⟨htx, hlt, hbit⟩⟩

end Sys2Proof.Machine

/-! ## A tick in the cycle of a command -/

namespace Sys2Proof.Machine

open Sys2Proof.Claims

variable {p : Profile} {inp : CycleIn} {due : Bool} {s t u : State} {w : Word} {i : Instr} {base count : Byte}

/-- R136: behind the open gate a tick is a handler run, at whatever count of the divider. -/
theorem tick_atCount_of_open (hie : s.ie = true) (x : Nat) : tick (s.atCount x) = (handler s).atCount x :=
  (if_pos hie).trans (handler_atCount x s)

/-- R136: a tick event does not look at the divider, the line or the response. -/
theorem tick_atCount (x : Nat) (s : State) : tick (s.atCount x) = (tick s).atCount x := by
  rcases tick_cases s with ⟨hie, h⟩ | ⟨hie, hheld, h⟩ | ⟨hie, hnone, h⟩ <;> rw [h]
  · exact tick_atCount_of_open hie x
  · simp [tick, State.atCount, hie, hheld]
  · exact tick_of_closed hie

/-- R204: in a cycle with no SEND in progress the command presented runs after the tick, and then the transmission ends
where it has no slot. -/
theorem cycleIdle_of_next (hv : inp.cmdValid = true) (hd : decode inp.cmd = .command i)
    (hx : exec i (tickWhen due { s with dout := false }) = .next u) :
    cycleIdle due inp s = .next (endTransmission u) := by
  simp [cycleIdle, hv, hd, hx]

/-- R201: a command refused after the tick is refused in its cycle. -/
theorem cycleIdle_of_refused {r : Refusal} (hv : inp.cmdValid = true) (hd : decode inp.cmd = .command i)
    (hx : exec i (tickWhen due { s with dout := false }) = .refused r) : cycleIdle due inp s = .refused r := by
  simp [cycleIdle, hv, hd, hx]

/-- R27, R136: the cycle of a tick, with no SEND in progress: the divider wraps. -/
theorem cycle_idle_of_due (hdue : tickDue p s = true) (hp : s.encPhase = .idle) (hr : inp.rst = false) :
    cycle p inp s = cycleIdle true inp { s with tdiv := 0 }.silent := by
  rw [cycle_idle hr hp, hdue, countDivider_of_due hdue]

/-- R115: a command other than a SEND of no colour does not come to the end of a transmission. -/
theorem endTransmission_of_exec (hp : s.encPhase = .idle) (hi : ∀ base, i ≠ .send base 0) (h : exec i s = .next t) :
    endTransmission t = t := by
  obtain ⟨-, hwrites, -⟩ := commandsWriteOnlyTheirOwn i s t h
  refine if_neg fun ⟨htx, hpos⟩ => ?_
  rcases hwrites with ⟨⟨base, count, rfl⟩, -⟩ | ⟨-, hphase, -⟩
  · obtain ⟨-, rfl⟩ := exec_next_cases h
    have hcount : count = 0 := BitVec.eq_of_toNat_eq (by simpa using hpos)
    exact hi base (by rw [hcount])
  · simp [hphase, hp] at htx

/-- R204: a cycle in which a tick falls and a command is presented, other than a SEND of no colour, is the command's
meaning after the tick. -/
theorem cycle_eq_exec_after_tick (hdue : tickDue p s = true) (hp : s.encPhase = .idle) (hd : decode w = .command i)
    (hi : ∀ base, i ≠ .send base 0) : cycle p ⟨false, true, w⟩ s = exec i (tick (s.atCount 0)) := by
  rw [cycle_idle_of_due hdue hp rfl]
  cases hx : exec i (tick (s.atCount 0)) with
  | next u =>
    have hidle : (tick (s.atCount 0)).encPhase = .idle := (tick_encPhase _).trans hp
    rw [cycleIdle_of_next rfl hd hx, endTransmission_of_exec hidle hi hx]
  | fault r => cases r
  | refused r => exact cycleIdle_of_refused rfl hd hx

/-- R204, R113: a SEND begins after the tick that falls in its cycle. -/
theorem cycle_send_after_tick (hdue : tickDue p s = true) (hp : s.encPhase = .idle)
    (hframe : base.toNat + count.toNat ≤ 60) :
    cycle p ⟨false, true, encode (.send base count)⟩ s =
      .next (endTransmission ((tick (s.atCount 0)).sending base count 0)) := by
  rw [cycle_idle_of_due hdue hp rfl]
  exact cycleIdle_of_next rfl (Laws.decodeOfEncode _) (exec_send hframe _)

/-- R204: after a SEND of no colour, begun after the tick of its cycle, the transmission is over on that edge. -/
theorem endTransmission_send_none (base : Byte) (s : State) :
    endTransmission ((tick (s.atCount 0)).sending base 0 0) =
      { encEnd { tick s with tdiv := 0, dout := false, encBase := base, encCnt := 0, encPos := 0, ie := false } with
        encCyc := 0 } := by
  rw [endTransmission_of_end rfl rfl, tick_atCount, encEnd_delivers, encEnd_delivers]
  simp [State.sending, State.atCount]

/-- R115: with no tick held, the end of a transmission runs no handler. -/
theorem endTransmission_of_none_held (h : s.tpend = false) :
    (endTransmission s).tpend = false ∧ (endTransmission s).count = s.count ∧ (endTransmission s).tf = s.tf := by
  rcases endTransmission_cases s with ⟨_, _, he⟩ | ⟨_, he⟩ <;> rw [he]
  · simp [encEnd_delivers, h]
  · exact ⟨h, rfl, rfl⟩

/-- R115: the end of a transmission is the start of its quiet period, not of the idle phase. -/
theorem endTransmission_busy (h : s.encPhase = .tx) : (endTransmission s).encPhase ≠ .idle := by
  rcases endTransmission_cases s with ⟨_, _, he⟩ | ⟨_, he⟩ <;> rw [he]
  · simp [encEnd_delivers]
  · simp [h]

/-! ## A tick in the cycle of the end of a transmission -/

/-- R204, R115: a tick right after the end of a transmission runs the handler itself, after the run that a held tick
had there. -/
theorem tick_encEnd_delivers (hcount : u.count = s.count) (hperiod : u.period = s.period) (htf : u.tf = s.tf)
    (hheld : u.tpend = s.tpend) (ht : t = tick { encEnd u with encCyc := 0 }) :
    t.encPhase = .quiet ∧ t.ie = true ∧ t.tpend = false ∧
      t.count = (handler^[if s.tpend then 2 else 1] s).count ∧ t.tf = (handler^[if s.tpend then 2 else 1] s).tf := by
  have hopen : tick { encEnd u with encCyc := 0 } = handler { encEnd u with encCyc := 0 } :=
    if_pos (by simp [encEnd_delivers])
  rw [ht, hopen]
  cases hs : s.tpend <;> simp [encEnd_delivers, hcount, hperiod, htf, hheld, hs]

/-- R204: the cycle of a tick and of the last step of a transmission: the end of the transmission comes first. -/
theorem cycle_end_before_tick (hdue : tickDue p s = true) (hr : inp.rst = false) (hp : s.encPhase = .tx)
    (hpos : s.encPos.toNat + 1 = 24 * s.encCnt.toNat) (hcyc : s.encCyc + 1 = p.slotCyc)
    (hwritten : coloursWritten s.cb s.encBase.toNat s.encCnt.toNat) :
    ∃ u : State, u.count = s.count ∧ u.period = s.period ∧ u.tf = s.tf ∧ u.tpend = s.tpend ∧
      cycle p inp s = .next (tick { encEnd u with encCyc := 0 }) := by
  have hlt : s.encPos.toNat < 24 * s.encCnt.toNat := by omega
  obtain ⟨b, hb, -⟩ := frameBit_of_written hwritten hlt
  have hlast : (s.encPos + 1).toNat = 24 * s.encCnt.toNat := (encPos_succ_toNat hlt).trans hpos
  have hslot := cycleTx_slotEnd (due := true) (s := { s with tdiv := 0 }.silent) hlt hb hcyc.ge
  rw [endTransmission_of_end (by exact hp) (by exact hlast)] at hslot
  rw [cycle_tx hr hp, hdue, countDivider_of_due hdue]
  refine ⟨_, ?_, ?_, ?_, ?_, hslot⟩ <;> rfl

/-- Settles O56: the cycle of a command after its tick, SEND of no colour apart; the three commands at an open gate; and
the last cycle of a transmission. -/
theorem sameCycleOrder : Obligations.SameCycleOrder := by
  intro p s _ hdue
  refine ⟨fun hp w i hd hi => cycle_eq_exec_after_tick hdue hp hd hi, fun hp base hbase => ?_,
    fun hp hie hnone => ?_, fun inp hr hp hpos hcyc hwritten => ?_⟩
  · rw [cycle_send_after_tick hdue hp (by simpa using hbase), endTransmission_send_none]
  · have htick := tick_atCount_of_open hie 0
    refine ⟨fun hone => ?_, fun base count hframe => ?_, ?_⟩
    · have hraised : (handler s).tf = true := by rw [handler_of_count_one (by rw [hone]; rfl)]
      refine ⟨_, cycle_eq_exec_after_tick (i := .tftac) hdue hp (by decide) (by simp), ?_, rfl⟩
      rw [htick, State.respond_rsp]
      exact congrArg some (zextFlag_eq_one_iff.mpr hraised)
    · have hheld : ((tick (s.atCount 0)).sending base count 0).tpend = false := by
        rw [htick]
        exact (handler_tpend s).trans hnone
      obtain ⟨htpend, hcount, htf⟩ := endTransmission_of_none_held hheld
      refine ⟨_, cycle_send_after_tick hdue hp hframe, htpend, ?_, ?_, endTransmission_busy rfl⟩
      · rw [hcount, htick]; rfl
      · rw [htf, htick]; rfl
    · refine ⟨_, cycle_eq_exec_after_tick (i := .stop) hdue hp (by decide) (by simp), rfl, ?_, ?_⟩ <;>
        rw [htick] <;> rfl
  · obtain ⟨u, hcount, hperiod, htf, hheld, hcycle⟩ := cycle_end_before_tick hdue hr hp hpos hcyc hwritten
    exact ⟨_, hcycle, tick_encEnd_delivers hcount hperiod htf hheld rfl⟩

end Sys2Proof.Machine

end

section
/-! PROOFS of the family `70_reset_and_hazards.md`: the ticks of a short transmission (O57), how a word presented and a
command accepted come out (O8, O9, O46), and a reset (O48, O49). -/

/-! ## Counting ticks

A tick that falls behind the closed gate runs no handler yet, so runs are counted with the held tick as if delivered. -/

namespace Sys2Proof.Machine

variable {p : Profile} {due : Bool} {s t u : State}

/-- What the handler reads and writes (R137), and nothing else of the state. -/
def State.timer (s : State) : State := { State.reset with period := s.period, count := s.count, tf := s.tf }

/-- The timer as it will be once the held tick, where there is one, has been delivered (R115). -/
def State.settled (s : State) : State := handler^[s.tpend.toNat] s.timer

theorem count_tf_of_timer (h : s.timer = t.timer) : s.count = t.count ∧ s.tf = t.tf :=
  ⟨congrArg State.count (a₁ := s.timer) (a₂ := t.timer) h, congrArg State.tf (a₁ := s.timer) (a₂ := t.timer) h⟩

theorem handler_timer (s : State) : handler s.timer = (handler s).timer := by
  rcases handler_cases s with ⟨h0, h⟩ | ⟨h0, h⟩ <;> rw [h]
  · exact if_pos h0
  · exact if_neg h0

theorem iterate_handler_timer (k : Nat) (s : State) : handler^[k] s.timer = (handler^[k] s).timer :=
  Function.Commute.iterate_left handler_timer k s

theorem settled_of_none_held (h : s.tpend = false) : s.settled = s.timer := by
  rw [State.settled, h]
  rfl

theorem settled_of_held (h : s.tpend = true) : s.settled = (handler s).timer := by
  rw [State.settled, h, ← handler_timer]
  rfl

/-- R136: with no tick held, a tick event is one more handler run, made at once or held. -/
theorem tick_settled (h : s.tpend = false) : (tick s).settled = handler s.settled := by
  rw [settled_of_none_held h, handler_timer]
  rcases tick_cases s with ⟨_, he⟩ | ⟨_, hheld, _⟩ | ⟨_, _, he⟩
  · rw [he, settled_of_none_held ((handler_tpend s).trans h)]
  · simp [h] at hheld
  · rw [he, settled_of_held rfl, ← handler_timer, ← handler_timer]
    rfl

/-- R115: the end-of-transmission step makes the run that was held. -/
theorem encEnd_settled (s : State) : (encEnd s).settled = s.settled := by
  rw [encEnd_delivers, settled_of_none_held rfl]
  cases h : s.tpend with
  | false => exact (settled_of_none_held h).symm
  | true =>
    rw [settled_of_held h, State.timer, State.timer, handler_period]
    rfl

/-- `k` ticks on the way from `s` to `t`: each has run the handler or is held. -/
structure Counts (k : Nat) (s t : State) : Prop where
  settled : t.settled = handler^[k] s.settled
  run : t.run = s.run
  held : t.tpend = true → s.tpend = true ∨ 0 < k

theorem Counts.refl (s : State) : Counts 0 s s := ⟨rfl, rfl, .inl⟩

theorem Counts.trans {j k : Nat} (h : Counts j s u) (h' : Counts k u t) : Counts (k + j) s t where
  settled := by rw [h'.settled, h.settled, Function.iterate_add_apply]
  run := h'.run.trans h.run
  held ht := by
    rcases h'.held ht with hu | hk
    · exact (h.held hu).imp_right (Nat.add_pos_right k)
    · exact .inr (Nat.add_pos_left hk j)

/-- What leaves the timer, the held tick and `RUN` alone counts no tick. -/
theorem Counts.congr {k : Nat} (h : Counts k s u) (htimer : t.timer = u.timer) (htpend : t.tpend = u.tpend)
    (hrun : t.run = u.run) : Counts k s t where
  settled := by rw [← h.settled, State.settled, htimer, htpend, State.settled]
  run := hrun.trans h.run
  held ht := h.held (htpend ▸ ht)

/-- R136: a tick event with none held counts one tick. -/
theorem Counts.tickWhen (h : Counts 0 s u) (hfree : due = true → s.tpend = false) :
    Counts due.toNat s (tickWhen due u) := by
  cases due with
  | false => exact h
  | true =>
    have hnone : u.tpend = false := by simpa [hfree rfl] using h.held
    exact h.trans ⟨tick_settled hnone, tick_run u, fun _ => .inr Nat.one_pos⟩

/-- R115: the end of a transmission counts no tick, whether or not it delivers one. -/
theorem Counts.endTransmission (h : Counts 0 s u) : Counts 0 s (endTransmission u) := by
  rcases endTransmission_cases u with ⟨_, _, he⟩ | ⟨_, he⟩ <;> rw [he]
  · exact h.trans ⟨encEnd_settled u, by simp [encEnd], by simp [encEnd]⟩
  · exact h

/-! ## The ticks of busy cycles -/

/-- R90: a cycle of the quiet period counts its tick. -/
theorem Counts.cycleQuiet (h : Counts 0 s u) (hfree : due = true → s.tpend = false) (p : Profile) :
    Counts due.toNat s (cycleQuiet p due u) := by
  have htick : Counts due.toNat s (Machine.tickWhen due { u with dout := false }) :=
    .tickWhen (h.congr rfl rfl rfl) hfree
  rcases Nat.lt_or_ge (u.encCyc + 1) p.quietCyc with hlt | hge
  · rw [cycleQuiet_within rfl hlt]
    exact htick.congr rfl rfl rfl
  · rw [cycleQuiet_last hge]
    exact htick.congr rfl rfl rfl

/-- R88, R204: a cycle of a transmission counts its tick, also where the transmission ends in it. -/
theorem Counts.cycleTx (h : Counts 0 s u) (hfree : due = true → s.tpend = false) (hx : cycleTx p due u = .next t) :
    Counts due.toNat s t := by
  rcases cycleTx_cases hx with ⟨_, b, hb, ⟨_, rfl⟩ | ⟨_, v, hv, rfl⟩⟩ | ⟨_, rfl⟩ | ⟨_, rfl⟩
  · exact .tickWhen (h.congr rfl rfl rfl) hfree
  · obtain rfl := Host.Outcome.next.inj ((encBit_of_frameBit (s := { u with encCyc := 0 }) hb).symm.trans hv)
    exact .tickWhen (.endTransmission (h.congr rfl rfl rfl)) hfree
  · exact h.endTransmission.cycleQuiet hfree p
  · exact .tickWhen (h.congr rfl rfl rfl) hfree

/-- R27, R136: a busy cycle counts the divider and its tick. -/
theorem cycle_busy_counts {inp : CycleIn} (hr : inp.rst = false) (hp : s.encPhase ≠ .idle)
    (hfree : tickDue p s = true → s.tpend = false) (h : cycle p inp s = .next t) :
    t.tdiv = (countDivider p s).tdiv ∧ Counts (tickDue p s).toNat s t := by
  have hdivider : Counts 0 s (countDivider p s).silent := by
    rw [countDivider_eq]
    exact (Counts.refl s).congr rfl rfl rfl
  cases hphase : s.encPhase with
  | idle => exact absurd hphase hp
  | tx =>
    rw [cycle_tx hr hphase] at h
    exact ⟨(cycleTx_tdiv h).trans rfl, hdivider.cycleTx hfree h⟩
  | quiet =>
    rw [cycle_quiet hr hphase] at h
    obtain rfl := Host.Outcome.next.inj h
    exact ⟨cycleQuiet_tdiv p _ _, hdivider.cycleQuiet hfree p⟩

/-- R27: while `RUN = 1` the divider counts modulo `TICK_CYC`, and a tick is due where it wraps. -/
theorem divider_counts (hrun : s.run = true) (hlt : s.tdiv < p.tickCyc) :
    (countDivider p s).tdiv = (s.tdiv + 1) % p.tickCyc ∧ (tickDue p s).toNat = (s.tdiv + 1) / p.tickCyc := by
  rcases Nat.lt_or_ge (s.tdiv + 1) p.tickCyc with h | h
  · simp [countDivider, tickDue, hrun, Nat.not_le.mpr h, Nat.mod_eq_of_lt h, Nat.div_eq_of_lt h]
  · have heq : s.tdiv + 1 = p.tickCyc := by omega
    have hpos : 0 < p.tickCyc := by omega
    simp [countDivider, tickDue, hrun, heq, Nat.div_self hpos]

/-- R233: `n` cycles of the divider from `s` on, and `u` after them: every wrap so far has run the handler or is held. -/
structure Ticked (p : Profile) (n : Nat) (s u : State) : Prop where
  tdiv : u.tdiv = (s.tdiv + n) % p.tickCyc
  counts : Counts ((s.tdiv + n) / p.tickCyc) s u

theorem Ticked.zero (hlt : s.tdiv < p.tickCyc) : Ticked p 0 s s where
  tdiv := (Nat.mod_eq_of_lt hlt).symm
  counts := by
    rw [Nat.add_zero, Nat.div_eq_of_lt hlt]
    exact .refl s

/-- R233: no more than one tick time after `s`, a tick finds none held, so the next busy cycle loses none. -/
theorem Ticked.cycle {inp : CycleIn} {n : Nat} (h : Ticked p n s u) (hrun : s.run = true) (hnone : s.tpend = false)
    (hlt : s.tdiv < p.tickCyc) (hn : n < p.tickCyc) (hr : inp.rst = false) (hp : u.encPhase ≠ .idle)
    (hcycle : cycle p inp u = .next t) : Ticked p (n + 1) s t := by
  have hpos : 0 < p.tickCyc := by omega
  obtain ⟨htdiv, hcounts⟩ := h
  obtain ⟨hmod, hdue⟩ := divider_counts (p := p) (hcounts.run.trans hrun) (by rw [htdiv]; exact Nat.mod_lt _ hpos)
  rw [htdiv, Nat.mod_add_mod] at hmod
  rw [htdiv] at hdue
  have hwraps := wraps_add hpos (s.tdiv + n) 1
  have hone : (s.tdiv + n + 1) / p.tickCyc < 2 := Nat.div_lt_of_lt_mul (by omega)
  have hfree : tickDue p u = true → u.tpend = false := fun hd => by
    by_contra hheld
    rcases hcounts.held (by simpa using hheld) with hs | hbefore
    · simp [hnone] at hs
    · rw [hd, Bool.toNat_true] at hdue
      omega
  obtain ⟨htdiv', hcounts'⟩ := cycle_busy_counts hr hp hfree hcycle
  refine ⟨htdiv'.trans hmod, ?_⟩
  rw [← Nat.add_assoc, ← hwraps, ← hdue]
  exact hcounts.trans hcounts'

end Sys2Proof.Machine

/-! ## The ticks of a transmission -/

namespace Sys2Proof.Machine

open Sys2Proof.Claims

variable {p : Profile} {ins : List CycleIn} {s t u v : State}

/-- What every busy cycle of a run keeps, counted by cycles, holds after the run. -/
theorem runCycles_busy_induct {P : Nat → State → Prop} {levels : List Bool} {n : Nat}
    (hbusy : ∀ k < ins.length, ∃ l r, runCycles p (ins.take k) u = some (l, r) ∧ r.cmdReady = false)
    (hrun : runCycles p ins u = some (levels, t)) (h : P n u)
    (hstep : ∀ k < n + ins.length, ∀ inp ∈ ins, ∀ v w, P k v → v.encPhase ≠ .idle → cycle p inp v = .next w →
      P (k + 1) w) :
    P (n + ins.length) t := by
  induction ins generalizing u levels n with
  | nil =>
    cases hrun
    exact h
  | cons inp ins ih =>
    obtain ⟨_, _, hfirst, hready⟩ := hbusy 0 (Nat.succ_pos _)
    cases hfirst
    cases hc : cycle p inp u with
    | fault r => cases r
    | refused r => simp [runCycles, hc] at hrun
    | next w =>
      simp only [runCycles, hc, Option.map_eq_some_iff, Prod.mk.injEq, Prod.exists] at hrun
      obtain ⟨rest, _, hrest, -, rfl⟩ := hrun
      rw [List.length_cons, Nat.add_comm ins.length 1, ← Nat.add_assoc] at hstep ⊢
      refine ih (fun k hk => ?_) hrest
        (hstep n (by omega) inp (List.mem_cons_self ..) u w h (by simpa [State.cmdReady] using hready) hc)
        fun k hk i hi => hstep k hk i (List.mem_cons_of_mem _ hi)
      obtain ⟨l, r, hr, hnot⟩ := hbusy (k + 1) (Nat.succ_lt_succ hk)
      simp only [List.take_succ_cons, runCycles, hc, Option.map_eq_some_iff, Prod.mk.injEq, Prod.exists] at hr
      obtain ⟨l', _, hr', -, rfl⟩ := hr
      exact ⟨l', _, hr', hnot⟩

/-- R136: a tick is held only behind a closed gate, so with the gate open the held tick is the same too. -/
theorem SameButClock.tpend_of_open (h : SameButClock v u) (hie : v.ie = true) : u.tpend = v.tpend := by
  obtain ⟨_, _, _, _, _, _, _, hheld, rfl⟩ := h
  exact hheld hie

/-- R113: the state before the first slot of a transmission, as a SEND leaves it. -/
theorem sameButClock_sending_zero (hp : s.encPhase = .tx) (hpos : s.encPos = 0) (hcyc : s.encCyc = 0)
    (hie : s.ie = false) : SameButClock (s.sending s.encBase s.encCnt 0) s := by
  refine ⟨s.tdiv, s.dout, s.count, s.tf, s.tpend, s.rsp, s.moves, fun _ => rfl, ?_⟩
  cases s
  simp_all [State.sending]

/-- R88, R115: the levels of the slots alone, up to the end of the transmission. -/
theorem drives_slots {base count : Byte} (hp : p.wf = true) (hcnt : 1 ≤ count.toNat)
    (hwritten : coloursWritten s.cb base.toNat count.toNat) :
    Drives p ((framePulses s.cb base.toNat count.toNat).flatMap (waveform p)) (s.sending base count 0)
      { encEnd (s.sending base count (24 * count.toNat)) with encCyc := 0 } := by
  have hslots := Drives.iterate (p := p) (f := fun j => endTransmission (s.sending base count j))
    (levels := fun j => waveform p (framePulse s.cb base.toNat j)) (n := 24 * count.toNat) fun j hj => by
      rw [endTransmission_sending hj]
      exact drives_slot hp hj hwritten
  rw [endTransmission_sending (by omega), endTransmission_of_end rfl (sending_encPos le_rfl s)] at hslots
  rwa [framePulses_eq_map, List.flatMap_map]

/-- R245: a transmission takes its slots. -/
theorem length_waveform_slots (hp : p.wf = true) (m : Memory) (base count : Nat) :
    ((framePulses m base count).flatMap (waveform p)).length = 24 * count * p.slotCyc := by
  have h := length_waveform_frame hp m base count
  rw [List.flatMap_append, List.length_append, List.flatMap_singleton, waveform, List.length_replicate] at h
  exact Nat.add_right_cancel h

/-- R245: a transmission of written colours runs through its slots, busy at each of its cycles, and ends with the gate
open. -/
theorem runCycles_transmission (hp : p.wf = true) (htx : s.encPhase = .tx) (hpos : s.encPos = 0) (hcyc : s.encCyc = 0)
    (hie : s.ie = false) (hcnt : 1 ≤ s.encCnt.toNat) (hwritten : coloursWritten s.cb s.encBase.toNat s.encCnt.toNat)
    (hrst : ∀ inp ∈ ins, inp.rst = false) (hlength : ins.length = 24 * s.encCnt.toNat * p.slotCyc) :
    ∃ l t, runCycles p ins s = some (l, t) ∧ t.encPhase = .quiet ∧ t.tpend = false ∧
      ∀ k < ins.length, ∃ l r, runCycles p (ins.take k) s = some (l, r) ∧ r.cmdReady = false := by
  rw [← length_waveform_slots hp s.cb s.encBase.toNat] at hlength
  obtain ⟨t, hrun, hend, hbusy⟩ :=
    (drives_slots hp hcnt hwritten).run (sameButClock_sending_zero htx hpos hcyc hie) hrst hlength
  exact ⟨_, t, hrun, hend.encPhase, (hend.tpend_of_open (by simp [encEnd])).trans (by simp [encEnd]), hbusy⟩

/-- Settles O57: the run of the transmission, with its wraps counted cycle by cycle; at the end none is held. -/
theorem shortFramesLoseNoTick : Obligations.ShortFramesLoseNoTick := by
  refine ⟨fun count => ?_, fun p s ins hp htx hpos hcyc hie hnone hrun hlt hcnt hshort hwritten hrst hlength => ?_⟩
  · simp only [profileA]
    omega
  obtain ⟨l, t, hcycles, hquiet, htpend, hbusy⟩ := runCycles_transmission hp htx hpos hcyc hie hcnt hwritten hrst hlength
  have hticked : Ticked p (0 + ins.length) s t :=
    runCycles_busy_induct (P := fun n u => Ticked p n s u) hbusy hcycles (.zero hlt) fun k hk inp hi v w hv hphase hc =>
      hv.cycle hrun hnone hlt (by omega) (hrst inp hi) hphase hc
  rw [Nat.zero_add] at hticked
  have htimer := hticked.counts.settled
  rw [settled_of_none_held htpend, settled_of_none_held hnone, iterate_handler_timer] at htimer
  obtain ⟨hcount, htf⟩ := count_tf_of_timer htimer
  exact ⟨l, t, hcycles, hquiet, htpend, hticked.tdiv, hcount, htf⟩

end Sys2Proof.Machine

/-! ## A word presented, a command accepted, and a reset -/

namespace Sys2Proof.Machine

variable {s : State}

theorem decodeTableWord_eq_some_iff {nbits w : Nat} {i : Instr} :
    decodeTableWord nbits w = some i ↔ decode (tableWord nbits w) = .command i := by
  unfold decodeTableWord
  cases decode (tableWord nbits w) <;> simp

/-- Settles O8: the word is first on the port of an idle block whose move is next. -/
theorem fetchedWordRuns : Obligations.FetchedWordRuns := by
  intro s w i hd
  obtain ⟨-, hlisted⟩ := stepRunsTheDecodedCommand (s.withFetchWord 32 w) (tableWord 32 w) s.cmds i rfl rfl
    (decodeTableWord_eq_some_iff.mp hd)
  exact hlisted s.moves rfl

/-- R84: an idle block refuses a word that no row matches. -/
theorem blockStep_of_reserved {w : Word} {ws : List Word} (hp : s.encPhase = .idle) (hc : s.cmds = w :: ws)
    (hd : decode w = .reservedWord) : blockStep s = .refused (.reservedWord s.pc) := by
  rw [blockStep_idle hp, acceptCommand, hc]
  simp only [hd]

/-- Settles O9: the block's move, listed or not, refuses the word presented. -/
theorem reservedWordIsRefused : Obligations.ReservedWordIsRefused := by
  intro s w ws hp hc hd hblock
  cases hm : s.moves with
  | nil => rw [step_of_no_moves hm, blockStep_of_reserved hp hc hd]
  | cons m ms =>
    obtain rfl : m = .block := by simpa [hm] using hblock
    rw [step_of_move hm, takeMove, blockStep_of_reserved (s := { s with moves := ms }) hp hc hd]

/-- Settles O46: none of the reasons a command can be refused for is there. -/
theorem everyCommandRuns : Obligations.EveryCommandRuns := by
  intro i s hwf hwritten
  cases hx : exec i s with
  | next t => exact ⟨t, rfl⟩
  | fault r => cases r
  | refused r =>
    have hrefused := exec_refused_cases hx
    cases r with
    | notModelled => exact False.elim hrefused
    | reservedWord => exact False.elim hrefused
    | outOfRange =>
      obtain ⟨-, hout, -⟩ := hrefused
      simp [hwf] at hout
    | periodZero =>
      obtain ⟨-, rfl⟩ := hrefused
      cases hwf
    | unwrittenColourByte =>
      obtain ⟨-, ch, idx, hi, hread⟩ := hrefused
      have hsome := hwritten ch idx hi
      rw [colourAddr] at hread
      simp [hread] at hsome

/-- Settles O48: the reset move, taken from any state. -/
theorem resetAtAnyMoment : Obligations.ResetAtAnyMoment := fun _ _ hm => step_of_move hm

/-- Settles O49: each part of the invariant at the reset values. -/
theorem resetSatisfiesInv : Obligations.ResetSatisfiesInv := reset_inv

end Sys2Proof.Machine

end
